-- ==== Sys2Proof/Word.lean ====
section
/-! DEFINITION. Words of the block: a byte, a host command word, a radio register address (spec 00_scope R9, R10).
Every value is unsigned; bit 0 is the least significant bit. -/

namespace Sys2Proof

/-- A register byte, a payload byte or one half of a byte exchange (R9). -/
abbrev Byte := BitVec 8

/-- A host command word as written to CMDW (R9, R110). -/
abbrev Word := BitVec 32

/-- A radio register address: 5 bits, 0x00 to 0x1F (R9, R71, conflict C1). -/
abbrev RegAddr := BitVec 5

end Sys2Proof
end

