-- ==== Sys2Proof/Config.lean ====
section
/-! DEFINITION. What an implementation fixes (spec 00_scope R8) and the free byte `Draw8()` (R11).

The parameters are plain data, carried by State in a field no step writes: R8 says a model takes each one as an
argument, so a statement about every state is a statement about every value of the parameters. -/

namespace Sys2Proof

/-- Which bit of 0x70 is which STATUS flag: the six assignments that R8 and decision D11 allow (three distinct bits
whose OR is 0x70). The name lists the bit of TX_DS, of MAX_RT and of RX_DR. -/
inductive FlagLayout where
  /-- TX_DS 0x20, MAX_RT 0x10, RX_DR 0x40: the default of R8. -/
  | ds5rt4dr6
  | ds5rt6dr4
  | ds4rt5dr6
  | ds4rt6dr5
  | ds6rt4dr5
  | ds6rt5dr4
  deriving DecidableEq, Repr

/-- One exception of RADIO_STORE from the identity: a write of `wrote` to the 1-byte register `addr` stores `kept`.
DEDUCED (log entry 2): its domain is finite, so every total function is a list of these. -/
structure StoreRow where
  addr  : RegAddr
  wrote : Byte
  kept  : Byte
  deriving DecidableEq, Repr

/-- The implementation parameters of R8. RADIO_STORE is the identity but for the listed rows, the first of which wins:
its domain is finite, so every total function has such a list. -/
structure Params where
  /-- SETTLE_TICKS: engine ticks of every settling delay (D7). -/
  settleTicks : Nat
  /-- POLL_MAX: iteration cap of the transmit poll loop (D8). -/
  pollMax : Nat
  /-- PAYLOAD_MAX: size in bytes of TXB and RXB (D12). -/
  payloadMax : Nat
  /-- TX_DS_MASK, MAX_RT_MASK, RX_DR_MASK (D11). -/
  flags : FlagLayout
  /-- RADIO_STORE, as its exceptions from the identity (D19). -/
  storeRows : List StoreRow
  /-- RF_CAUSAL: whether RF events are tied to triggers and mode (D23). -/
  rfCausal : Bool
  /-- XFER_TICKS: ticks one byte exchange takes, timing only (D31). -/
  xferTicks : Nat
  deriving DecidableEq, Repr

/-- The constraints R8 puts on the parameters (those on the masks hold by the type FlagLayout). -/
def Params.wf (p : Params) : Bool :=
  decide (1 ≤ p.settleTicks) && decide (1 ≤ p.pollMax) && decide (1 ≤ p.payloadMax)
    && decide (p.payloadMax ≤ 255) && decide (1 ≤ p.xferTicks)

/-- DESIGN CHOICE (log entry 1): the defaults of R8, which the spec uses for its test vectors only; `State.reset` carries them. -/
def Params.defaults : Params where
  settleTicks := 2
  pollMax := 3
  payloadMax := 32
  flags := .ds5rt4dr6
  storeRows := []
  rfCausal := false
  xferTicks := 1

/-- The free byte `Draw8()` (R11): "a free byte chosen by the environment under no law". It has no body, so no proof can
know it; the step applies it to a counter of State, so that each draw is another one (log entry 5). -/
opaque Config.freeByte : Nat → Byte

end Sys2Proof
end

