-- ==== Sys2Proof/Syntax.lean ====
section
/-! DEFINITION. The instructions of the block's two command sets (spec 00_scope R2, 30_encoding), one constructor per
row of spec/opcode_table.json: four SPI command bytes the block sends to the radio, twelve host commands. -/

namespace Sys2Proof

/-- One constructor per row of the opcode table. The first four are SPI commands (R101-R104); their data bytes are
not part of the encoding, they follow on the bus (R107). The other twelve are host commands (R111, R112). -/
inductive Instr where
  /-- R_REGISTER `000aaaaa`: read register `a` (R101, R147). -/
  | rRegister (a : RegAddr)
  /-- W_REGISTER `001aaaaa`: write register `a` (R102, R148). -/
  | wRegister (a : RegAddr)
  /-- W_TX_PAYLOAD 0xA0: write transmit payload (R103, R149). -/
  | wTxPayload
  /-- R_RX_PAYLOAD 0x61: read receive payload (R104, R150). -/
  | rRxPayload
  /-- WRITE_REG: write register `a` with `v` (R140). -/
  | writeReg (a : RegAddr) (v : Byte)
  /-- READ_REG: read register `a` (R141). -/
  | readReg (a : RegAddr)
  /-- BEGIN: bring the radio into the known default state (R170). -/
  | beginRadio
  /-- SET_CHANNEL: set the RF channel (R173). -/
  | setChannel (channel : Byte)
  /-- SET_PA_LEVEL: set the power level, keep the data-rate bits (R174). -/
  | setPaLevel (level : Byte)
  /-- OPEN_WRITING_PIPE: program the transmit target address from ADDRL (R191). -/
  | openWritingPipe
  /-- OPEN_READING_PIPE: program one receive pipe's address from ADDRL (R192). -/
  | openReadingPipe (pipe : Byte)
  /-- START_LISTENING: enter receive-listening (R213). -/
  | startListening
  /-- STOP_LISTENING: leave receive-listening (R214). -/
  | stopListening
  /-- WRITE_PAYLOAD: push a payload, trigger it, poll for the outcome (R230). -/
  | writePayload (len : Byte)
  /-- AVAILABLE: test for a waiting payload (R260). -/
  | available
  /-- READ_PAYLOAD: drain a received payload into RXB (R261). -/
  | readPayload (len : Byte)
  deriving DecidableEq, Repr

end Sys2Proof
end

