-- ==== Sys2Proof/WellFormed.lean ====
section
/-! DEFINITION. Well-formed assembly (spec 30_encoding R118-R120). An operand of `Instr` has exactly the width of its
encoding field, so every `Instr` is well formed by its type; what can be ill formed is a line of the spec's text syntax,
whose operands are numbers: "An operand out of its field's range (a > 31, v > 255) is an assembly error. It does not
become a word." -/

namespace Sys2Proof

/-- A line of the text syntax: the twelve commands of R118, the latch directives of R119, and the raw word that the
programs of 95_test_vectors (P4) use. R120: there are no pseudo-instructions. -/
inductive AsmLine where
  | writeReg (a v : Nat)
  | readReg (a : Nat)
  | beginRadio
  | setChannel (channel : Nat)
  | setPaLevel (level : Nat)
  | openWritingPipe
  | openReadingPipe (pipe : Nat)
  | startListening
  | stopListening
  | write (len : Nat)
  | available
  | read (len : Nat)
  /-- `.addr b0, b1, b2, b3, b4` -/
  | addr (bytes : List Nat)
  /-- `.txb b0, ..., bn-1` -/
  | txb (bytes : List Nat)
  /-- `.word w` -/
  | word (w : Nat)
  deriving DecidableEq, Repr

/-- An address operand is 0..31 (R118). -/
abbrev fitsAddr (a : Nat) : Bool := decide (a ≤ 31)

/-- A value, channel, level, pipe or length operand is 0..255 (R118). -/
abbrev fitsByte (v : Nat) : Bool := decide (v ≤ 255)

/-- Whether a line is well formed on a block whose latches hold `payloadMax` bytes (R118, R119). -/
def AsmLine.wellFormed (payloadMax : Nat) : AsmLine → Bool
  | .writeReg a v      => fitsAddr a && fitsByte v
  | .readReg a         => fitsAddr a
  | .beginRadio        => true
  | .setChannel v      => fitsByte v
  | .setPaLevel v      => fitsByte v
  | .openWritingPipe   => true
  | .openReadingPipe p => fitsByte p
  | .startListening    => true
  | .stopListening     => true
  | .write n           => fitsByte n
  | .available         => true
  | .read n            => fitsByte n
  | .addr bs           => decide (bs.length = 5) && bs.all fitsByte
  | .txb bs            => decide (bs.length ≤ payloadMax) && bs.all fitsByte
  | .word w            => decide (w < 2 ^ 32)

/-- The command a line of R118 stands for; a directive stands for none. On an ill-formed line it is not asked. -/
def AsmLine.command? : AsmLine → Option Instr
  | .writeReg a v      => some (.writeReg (BitVec.ofNat 5 a) (BitVec.ofNat 8 v))
  | .readReg a         => some (.readReg (BitVec.ofNat 5 a))
  | .beginRadio        => some .beginRadio
  | .setChannel v      => some (.setChannel (BitVec.ofNat 8 v))
  | .setPaLevel v      => some (.setPaLevel (BitVec.ofNat 8 v))
  | .openWritingPipe   => some .openWritingPipe
  | .openReadingPipe p => some (.openReadingPipe (BitVec.ofNat 8 p))
  | .startListening    => some .startListening
  | .stopListening     => some .stopListening
  | .write n           => some (.writePayload (BitVec.ofNat 8 n))
  | .available         => some .available
  | .read n            => some (.readPayload (BitVec.ofNat 8 n))
  | .addr _            => none
  | .txb _             => none
  | .word _            => none

end Sys2Proof
end

