-- ==== Sys2Proof/Decode.lean ====
section
/-! DEFINITION. Decoding and encoding of both command sets (spec 30_encoding). Decoding is total and rejects by name;
the encoder after it is written from the same tables. -/

namespace Sys2Proof

/-- Why bits are no instruction. The radio answers the first with its refusal mark (R106), the block answers the others
with ERR_CMD (R113-R115, R281). -/
inductive DecodeError where
  /-- A command byte outside the four patterns of R105 (UNLISTED). -/
  | unlisted (c : Byte)
  /-- A host word with op code 0xC..0xF (R114). -/
  | reservedOp (op : BitVec 4)
  /-- A host word with a non-zero bit in 7:4, 15:13 or 31:24 (R115). -/
  | reservedBits
  /-- A host word with a non-zero field its command does not use (R115). -/
  | unusedField
  /-- Neither 8 nor 32 bits: no format of the spec (R100, R110). -/
  | badWidth (nbits : Nat)
  deriving DecidableEq, Repr

/-! ### SPI command bytes -/

/-- The radio's decode of a command byte (R105). -/
def decodeSpi (c : Byte) : Except DecodeError Instr :=
  if c.extractLsb' 5 3 = 0b000#3 then .ok (.rRegister (c.extractLsb' 0 5))
  else if c.extractLsb' 5 3 = 0b001#3 then .ok (.wRegister (c.extractLsb' 0 5))
  else if c = 0xA0#8 then .ok .wTxPayload
  else if c = 0x61#8 then .ok .rRxPayload
  else .error (.unlisted c)

/-! ### Host command words -/

/-- `w[3:0]` (R110). -/
def opOf (w : Word) : BitVec 4 := w.extractLsb' 0 4

/-- `w[12:8]` (R110). -/
def aOf (w : Word) : RegAddr := w.extractLsb' 8 5

/-- `w[23:16]` (R110). -/
def vOf (w : Word) : Byte := w.extractLsb' 16 8

/-- A row of the table of R112: the match and mask of one command, and the command its fields make. -/
structure HostRow where
  pattern : Word
  mask    : Word
  command : RegAddr → Byte → Instr

/-- The table of R112, in its order. -/
def hostRows : List HostRow :=
  [ ⟨0x00000000#32, 0xFF00E0FF#32, fun a v => .writeReg a v⟩,
    ⟨0x00000001#32, 0xFFFFE0FF#32, fun a _ => .readReg a⟩,
    ⟨0x00000002#32, 0xFFFFFFFF#32, fun _ _ => .beginRadio⟩,
    ⟨0x00000003#32, 0xFF00FFFF#32, fun _ v => .setChannel v⟩,
    ⟨0x00000004#32, 0xFF00FFFF#32, fun _ v => .setPaLevel v⟩,
    ⟨0x00000005#32, 0xFFFFFFFF#32, fun _ _ => .openWritingPipe⟩,
    ⟨0x00000006#32, 0xFF00FFFF#32, fun _ v => .openReadingPipe v⟩,
    ⟨0x00000007#32, 0xFFFFFFFF#32, fun _ _ => .startListening⟩,
    ⟨0x00000008#32, 0xFFFFFFFF#32, fun _ _ => .stopListening⟩,
    ⟨0x00000009#32, 0xFF00FFFF#32, fun _ v => .writePayload v⟩,
    ⟨0x0000000A#32, 0xFFFFFFFF#32, fun _ _ => .available⟩,
    ⟨0x0000000B#32, 0xFF00FFFF#32, fun _ v => .readPayload v⟩ ]

/-- `(w & r.mask) == r.match` (R112). -/
def HostRow.accepts (r : HostRow) (w : Word) : Bool := w &&& r.mask == r.pattern

/-- The bits that are reserved in every host word: 7:4, 15:13, 31:24 (R110, R115). -/
def reservedMask : Word := 0xFF00E0F0#32

/-- The name under which a word no row accepts is rejected (R114, R115). -/
def badName (w : Word) : DecodeError :=
  if 0xC#4 ≤ opOf w then .reservedOp (opOf w)
  else if w &&& reservedMask ≠ 0#32 then .reservedBits
  else .unusedField

/-- `hostDecode` of R113: the first row that accepts the word, else BAD, under its name. -/
def decodeHost (w : Word) : Except DecodeError Instr :=
  match hostRows.find? (fun r => r.accepts w) with
  | some r => .ok (r.command (aOf w) (vOf w))
  | none   => .error (badName w)

/-- Decoding of `nbits` bits `w`: 8 bits are an SPI command byte (R100), 32 bits a host command word (R110). -/
def decode (nbits w : Nat) : Except DecodeError Instr :=
  if nbits = 8 then decodeSpi (BitVec.ofNat 8 w)
  else if nbits = 32 then decodeHost (BitVec.ofNat 32 w)
  else .error (.badWidth nbits)

/-- The host's question: what this decoder reads from the bits `w` of an opcode-table row of `nbits` bits. -/
def decodeTableWord (nbits w : Nat) : Option Instr :=
  match decode nbits w with
  | .ok i    => some i
  | .error _ => none

/-! ### The encoder -/

/-- `wcmd(a) = 0x20 | zext_8(a)` (R121). -/
def wcmd (a : RegAddr) : Byte := 0x20#8 ||| a.setWidth 8

/-- `rcmd(a) = zext_8(a)` (R122). -/
def rcmd (a : RegAddr) : Byte := a.setWidth 8

/-- `w = {8'b0, V, 3'b0, A, 4'b0, OP}` (R110): OP at bits 3:0, A at 12:8, V at 23:16, every other bit 0. -/
def hostWord (op : BitVec 4) (a : RegAddr) (v : Byte) : Word :=
  v.setWidth 32 <<< 16 ||| a.setWidth 32 <<< 8 ||| op.setWidth 32

/-- The bits of an instruction: an SPI command byte (R101-R104) or a host command word (R110-R112). -/
inductive Encoded where
  | spi (c : Byte)
  | host (w : Word)
  deriving DecidableEq, Repr

/-- The encoding of every instruction, from R101-R104 and the op codes of R111 in the format of R110. -/
def encode : Instr → Encoded
  | .rRegister a       => .spi (rcmd a)
  | .wRegister a       => .spi (wcmd a)
  | .wTxPayload        => .spi 0xA0#8
  | .rRxPayload        => .spi 0x61#8
  | .writeReg a v      => .host (hostWord 0x0#4 a v)
  | .readReg a         => .host (hostWord 0x1#4 a 0#8)
  | .beginRadio        => .host (hostWord 0x2#4 0#5 0#8)
  | .setChannel v      => .host (hostWord 0x3#4 0#5 v)
  | .setPaLevel v      => .host (hostWord 0x4#4 0#5 v)
  | .openWritingPipe   => .host (hostWord 0x5#4 0#5 0#8)
  | .openReadingPipe p => .host (hostWord 0x6#4 0#5 p)
  | .startListening    => .host (hostWord 0x7#4 0#5 0#8)
  | .stopListening     => .host (hostWord 0x8#4 0#5 0#8)
  | .writePayload n    => .host (hostWord 0x9#4 0#5 n)
  | .available         => .host (hostWord 0xA#4 0#5 0#8)
  | .readPayload n     => .host (hostWord 0xB#4 0#5 n)

/-- How many bits the encoding has. -/
def Encoded.nbits : Encoded → Nat
  | .spi _  => 8
  | .host _ => 32

/-- The encoding as a number, bit 0 least significant. -/
def Encoded.bits : Encoded → Nat
  | .spi c  => c.toNat
  | .host w => w.toNat

end Sys2Proof
end

