-- ==== Sys2Proof/Machine/State.lean ====
section
/-! DEFINITION. Everything the spec gives the machine, as plain data (spec 10_state): the engine, the host-visible registers
and latches, the radio, the parameters of 00_scope R8, and the model's own fields (the bus event trace, the environment's
list of moves, the draw counter, the host's last read). -/

namespace Sys2Proof.Machine

/-! ### The engine's procedures -/

/-- `phase` of R20, R21. -/
inductive Phase where
  /-- The settling period after reset (R312). -/
  | resetSettle
  /-- No command is running and a command may be accepted. -/
  | idle
  /-- A command is executing. -/
  | run
  deriving DecidableEq, Repr

/-- The result codes of R35. -/
inductive ResultCode where
  | ok
  | errCmd
  | errPipe
  | errLen
  deriving DecidableEq, Repr

/-- The byte arrays the host and the engine share (R32 idx 7-9). -/
inductive LatchName where
  | addrl
  | txb
  | rxb
  deriving DecidableEq, Repr

/-- Where a byte the engine sends comes from; it is read at the step that sends it (R130). -/
inductive ByteSource where
  /-- A value the command fixes: an operand or a constant. -/
  | const (b : Byte)
  /-- `ADDRL[i]` (R38). -/
  | addrl (i : Nat)
  /-- `TXB[i]` (R39). -/
  | txb (i : Nat)
  /-- `(tmp & keep) | set`: the write half of a read-modify-write (R85). -/
  | modify (keep set : Byte)
  deriving DecidableEq, Repr

/-- Where a data byte the engine reads goes. -/
inductive ByteDest where
  /-- `tmp` (R26, R135). -/
  | tmp
  /-- `tmp`, counting a poll (R234, R239). -/
  | poll
  /-- `RXB[i]` (R261). -/
  | rxb (i : Nat)
  deriving DecidableEq, Repr

/-- What a command's end step writes to the result registers (R35-R37). -/
inductive Ending where
  /-- RCODE OK and RFLAG as given. -/
  | flag (b : Bool)
  /-- RCODE OK, RFLAG 0, RDATA from `tmp`: READ_REG (R141). -/
  | data
  /-- RCODE OK, RFLAG = RX_DR of `tmp`: AVAILABLE (R260). -/
  | ready
  /-- `raise Err(code)` (R280). -/
  | error (code : ResultCode)
  deriving DecidableEq, Repr

/-- One position of a procedure (R11, R22): an event primitive, the end step, or a pure test of the transmit poll loop,
which takes no step of its own. The ticks of a `Settle()` are counted by `settleCnt`. -/
inductive MicroOp where
  /-- `DriveCS(l)` and the `Settle()` that always follows it (R211). -/
  | driveCS (l : Bool)
  /-- `DriveCE(l)` and the `Settle()` that always follows it (R211). -/
  | driveCE (l : Bool)
  /-- `Xfer(c)` of a frame's command byte; the snapshot goes to LSTAT (R130, R132). -/
  | cmd (c : Byte)
  /-- `Xfer` of a write-direction data byte; MISO is discarded (R133). -/
  | out (src : ByteSource)
  /-- `Xfer(READ_FILL)` of a read-direction data byte (R133). -/
  | read (dst : ByteDest)
  /-- The loop condition before the first poll (R230, R239). -/
  | pollLoop
  /-- The tests on the status byte a poll read, and the loop condition after it (R234-R237). -/
  | pollTest
  /-- The end step (R31). -/
  | finish (e : Ending)
  deriving DecidableEq, Repr

/-! ### The bus -/

/-- Bus events (R13): the trace of them is the block's observation. -/
inductive BusEvent where
  /-- `EvCS(l)`. -/
  | cs (l : Bool)
  /-- `EvCE(l)`. -/
  | ce (l : Bool)
  /-- `EvXfer(m, s)`: MOSI byte, MISO byte. -/
  | xfer (mosi miso : Byte)
  /-- `EvTick`. -/
  | tick
  deriving DecidableEq, Repr

/-! ### The radio -/

/-- `fcmd` of R47: the decoded command of the current frame. -/
inductive FrameCmd where
  | none
  | rReg (a : RegAddr)
  | wReg (a : RegAddr)
  | wTxPl
  | rRxPl
  deriving DecidableEq, Repr, Inhabited

/-- RADIO: the radio's SPI register port and register file (R40). -/
@[ext] structure Radio where
  /-- `reg1[0x00..0x06]`: CONFIG, EN_AA, EN_RXADDR, SETUP_AW, SETUP_RETR, RF_CH, RF_SETUP (R41, R43-R45). -/
  reg1 : Vector Byte 7
  /-- `reg5[0x0A..0x10]`: RX_ADDR_P0..RX_ADDR_P5, TX_ADDR, five bytes each (R42); index 0 is address 0x0A. -/
  reg5 : Vector (Vector Byte 5) 7
  /-- STATUS flag data-sent (R46). -/
  fTxDs : Bool
  /-- STATUS flag max-retries-reached (R46). -/
  fMaxRt : Bool
  /-- STATUS flag data-ready (R46). -/
  fRxDr : Bool
  /-- CS_N has been seen low and not yet high again (R47). -/
  inFrame : Bool
  /-- The decoded command of the current frame (R47). -/
  fcmd : FrameCmd
  /-- Data bytes exchanged after the command byte (R47). -/
  fidx : Nat
  /-- Payload bytes gathered by a W_TX_PAYLOAD frame (R47). -/
  facc : List Byte
  /-- Payloads pushed and not yet consumed (R48). -/
  txq : List (List Byte)
  /-- Received payloads not yet read (R48). -/
  rxq : List (List Byte)
  /-- The last CE level the radio saw (R49). -/
  ceSeen : Bool
  /-- CE is high since its last rising edge (R49). -/
  ceWasHigh : Bool
  /-- Trigger pulses not yet resolved by RF (R49). -/
  txPending : Nat
  /-- The refusal mark (R51). -/
  radioUnknown : Bool
  deriving DecidableEq, Repr, Inhabited

end Sys2Proof.Machine

namespace Sys2Proof

/-- The state of a radio about which nothing is known (R291): "treats every later MISO byte as unknown and every later
radio state as unconstrained". It has no body; the step applies it to the draw counter (log entry 5). -/
opaque Config.freeRadio : Nat → Machine.Radio

end Sys2Proof

namespace Sys2Proof.Machine

/-! ### The environment -/

/-- A step of the RF engine (R292). -/
inductive RfStep where
  /-- `rf_tx_done`. -/
  | txDone
  /-- `rf_tx_fail`. -/
  | txFail
  /-- `rf_rx(p)`. -/
  | rx (p : List Byte)
  /-- `rf_tx_drop`. -/
  | txDrop
  deriving DecidableEq, Repr

/-- What the host may read (R32). -/
inductive HostReg where
  | cmdw
  | busy
  | rvalid
  | rcode
  | rflag
  | rdata
  | lstat
  | latch (name : LatchName) (i : Nat)
  | csN
  | ce
  deriving DecidableEq, Repr

/-- A step of the host (R299). -/
inductive HostStep where
  /-- Wait for the commands issued before to end: no move until the engine is IDLE with no word pending (R119, R299; log entry 17). -/
  | await
  /-- Write a command word to CMDW (R33). -/
  | issue (w : Word)
  /-- Write `ADDRL[i]` (R38). -/
  | writeAddrl (i : Nat) (b : Byte)
  /-- Write `TXB[i]` (R39). -/
  | writeTxb (i : Nat) (b : Byte)
  /-- Read a host register. -/
  | read (r : HostReg)
  deriving DecidableEq, Repr

/-- One entry of the schedule: which agent moves next (R14, R83). -/
inductive EnvStep where
  /-- The engine. -/
  | engine
  /-- The RF engine. -/
  | rf (r : RfStep)
  /-- The host; where its step has no move yet, it waits and the engine moves (R33, R299). -/
  | host (h : HostStep)
  /-- RST is asserted in this step (R310). -/
  | reset
  deriving DecidableEq, Repr

/-! ### The state -/

@[ext]
structure State where
  /-- The implementation parameters (00_scope R8); no step writes them. -/
  cfg : Params
  -- the engine (R20)
  /-- R21. -/
  phase : Phase
  /-- The sequencer position: what is left of the running procedure; empty when no command runs (R22). -/
  seq : List MicroOp
  /-- `OP` (R23). -/
  op : BitVec 4
  /-- `A` (R23). -/
  a : RegAddr
  /-- `V` (R23). -/
  v : Byte
  /-- `settle_cnt` (R24). -/
  settleCnt : Nat
  /-- `poll_cnt` (R25). -/
  pollCnt : Nat
  /-- `tmp` (R26). -/
  tmp : Byte
  /-- `CS_N`, active low: true is level 1, released (R27). -/
  csN : Bool
  /-- `CE`, active high: true is level 1 (R28). -/
  ce : Bool
  -- host-visible registers and latches (R32)
  /-- `CMDW`: the one command word the host has written and the engine has not yet accepted (R33). -/
  cmdw : Option Word
  /-- `BUSY` (R34). -/
  busy : Bool
  /-- `RVALID` (R34). -/
  rvalid : Bool
  /-- `RCODE` (R35). -/
  rcode : ResultCode
  /-- `RFLAG` (R36). -/
  rflag : Bool
  /-- `RDATA` (R37). -/
  rdata : Byte
  /-- `LSTAT` (R37). -/
  lstat : Byte
  /-- `ADDRL[0..4]`; `none` is the spec's "unwritten" (R38, R39). DEDUCED (log entry 6), as for the other two latches. -/
  addrl : Vector (Option Byte) 5
  /-- `TXB[0..PAYLOAD_MAX-1]`; `none` is "unwritten" (R39). -/
  txb : List (Option Byte)
  /-- `RXB[0..PAYLOAD_MAX-1]`; `none` is "unwritten" (R39). -/
  rxb : List (Option Byte)
  /-- The radio (R40). -/
  radio : Radio
  -- the model's own
  /-- The bus events so far, the newest first (R13, decision D35). DESIGN CHOICE (log entry 8). -/
  trace : List BusEvent
  /-- The moves scheduled next; when the list is empty the engine moves (R83). -/
  env : List EnvStep
  /-- Index of the next free value (R11). -/
  draws : Nat
  /-- What the host's last read returned. -/
  hostData : Byte
  deriving DecidableEq, Repr

/-- Why the machine stops. All of these are the model's, not the chip's (R290); each is safe: the chip goes on. -/
inductive Fault where
  /-- `UnwrittenLatch(name, i)` of R290 (a): raised by the engine's step that is about to send an ADDRL or TXB byte that was
  never written (OPEN_WRITING_PIPE, OPEN_READING_PIPE, WRITE_PAYLOAD), and by a host read of such a byte. Safe. -/
  | unwrittenLatch (name : LatchName) (i : Nat)
  /-- `UnwrittenRxb(i)` of R290 (b): raised by a host read of an RXB byte no READ_PAYLOAD has written. Safe. -/
  | unwrittenRxb (i : Nat)
  /-- Raised by a host access to a latch byte that does not exist (index at or above the latch's size, R87). Safe. -/
  | noSuchLatchByte (name : LatchName) (i : Nat)
  deriving DecidableEq, Repr

/-- What the model gives no meaning. -/
inductive Refusal where
  /-- Raised by `exec` alone, for an instruction that has no meaning yet; `mnemonic` as in the opcode table. Safe. -/
  | notModelled (mnemonic : String)
  /-- `ResultNotValid` of R290 (c): raised by a host read of RCODE, RFLAG or RDATA while RVALID = 0 (R34). Safe. -/
  | resultNotValid
  /-- Raised by a host read of CMDW, which is write only and "holds no readable value" (R32, R33). Safe. -/
  | writeOnly
  deriving DecidableEq, Repr

/-! ### Reset -/

/-- DESIGN CHOICE (log entry 4): the radio's registers and flags after power-on are unspecified (R54); the model names zero
for each and empty queues. The other values are R54's. -/
def Radio.powerOn : Radio where
  reg1 := Vector.replicate 7 0#8
  reg5 := Vector.replicate 7 (Vector.replicate 5 0#8)
  fTxDs := false
  fMaxRt := false
  fRxDr := false
  inFrame := false
  fcmd := .none
  fidx := 0
  facc := []
  txq := []
  rxq := []
  ceSeen := false
  ceWasHigh := false
  txPending := 0
  radioUnknown := false

/-- The machine right after reset with the parameters `p` and the radio `r` (R53, R311): RESET_SETTLE is about to run its
ticks. The latches are unwritten. -/
def State.resetWith (p : Params) (r : Radio) : State where
  cfg := p
  phase := .resetSettle
  seq := []
  op := 0#4
  a := 0#5
  v := 0#8
  settleCnt := p.settleTicks
  pollCnt := 0
  tmp := 0x00#8
  csN := true
  ce := false
  cmdw := none
  busy := true
  rvalid := false
  rcode := .ok
  rflag := false
  rdata := 0x00#8
  lstat := 0x00#8
  addrl := Vector.replicate 5 none
  txb := List.replicate p.payloadMax none
  rxb := List.replicate p.payloadMax none
  radio := r
  trace := []
  env := []
  draws := 0
  hostData := 0x00#8

/-- The machine right after reset, with the default parameters and the power-on radio. -/
def State.reset : State := State.resetWith Params.defaults Radio.powerOn

end Sys2Proof.Machine
end

