-- ==== Sys2Proof/Machine/Flags.lean ====
section
/-! DEFINITION. The STATUS flags: their masks, the value STATUS reads as, the write-1-to-clear, and the tests the engine makes
on a status byte (spec 00_scope R8, 10_state R46, 40_register_access R154, 44_transmit R235, 45_receive R260). -/

namespace Sys2Proof.Machine

/-- `TX_DS_MASK` (R8). -/
def txDsMask (p : Params) : Byte :=
  match p.flags with
  | .ds5rt4dr6 => 0x20#8
  | .ds5rt6dr4 => 0x20#8
  | .ds4rt5dr6 => 0x10#8
  | .ds4rt6dr5 => 0x10#8
  | .ds6rt4dr5 => 0x40#8
  | .ds6rt5dr4 => 0x40#8

/-- `MAX_RT_MASK` (R8). -/
def maxRtMask (p : Params) : Byte :=
  match p.flags with
  | .ds5rt4dr6 => 0x10#8
  | .ds5rt6dr4 => 0x40#8
  | .ds4rt5dr6 => 0x20#8
  | .ds4rt6dr5 => 0x40#8
  | .ds6rt4dr5 => 0x10#8
  | .ds6rt5dr4 => 0x20#8

/-- `RX_DR_MASK` (R8). -/
def rxDrMask (p : Params) : Byte :=
  match p.flags with
  | .ds5rt4dr6 => 0x40#8
  | .ds5rt6dr4 => 0x10#8
  | .ds4rt5dr6 => 0x40#8
  | .ds4rt6dr5 => 0x20#8
  | .ds6rt4dr5 => 0x20#8
  | .ds6rt5dr4 => 0x10#8

/-- `s & mask != 0` (R235, R260). -/
def hasFlag (mask s : Byte) : Bool := s &&& mask != 0#8

/-- `STATUS_value` (R46); bits 7 and 3:0 read 0. -/
def statusValue (p : Params) (r : Radio) : Byte :=
  (if r.fTxDs then txDsMask p else 0#8) ||| (if r.fMaxRt then maxRtMask p else 0#8)
    ||| (if r.fRxDr then rxDrMask p else 0#8)

/-- `W1C(v)` (R154): clears each flag whose mask bit is 1 in `v`, sets none. -/
def w1c (p : Params) (v : Byte) (r : Radio) : Radio :=
  { r with
    fTxDs := r.fTxDs && !hasFlag (txDsMask p) v
    fMaxRt := r.fMaxRt && !hasFlag (maxRtMask p) v
    fRxDr := r.fRxDr && !hasFlag (rxDrMask p) v }

end Sys2Proof.Machine
end

