-- ==== Sys2Proof/Machine/Operands.lean ====
section
/-! DEFINITION. Operand forms (spec 30_encoding R121-R124, 42_pipes R190, 20_memory R72, R73): which radio register an address
names, the pipe decoder, where the engine's outgoing bytes come from, and the procedures' frames. -/

namespace Sys2Proof.Machine

/-- What a 5-bit radio register address names (R72). -/
inductive RegName where
  /-- A 1-byte register, 0x00..0x06 (R41). -/
  | one (i : Fin 7)
  /-- STATUS, 0x07 (R46). -/
  | status
  /-- A 5-byte register, 0x0A..0x10 (R42). -/
  | five (j : Fin 7)
  /-- 0x08, 0x09, 0x11..0x1F (R76). -/
  | unmapped
  deriving DecidableEq, Repr

/-- The register map (R72). -/
def regName (a : RegAddr) : RegName :=
  if h : a.toNat < 7 then .one ⟨a.toNat, h⟩
  else if a.toNat = 7 then .status
  else if h : 0x0A ≤ a.toNat ∧ a.toNat ≤ 0x10 then .five ⟨a.toNat - 0x0A, by omega⟩
  else .unmapped

/-- `pipeTarget(p)` (R190): the RX_ADDR register of a valid pipe, nothing for `p > 5`. -/
def pipeTarget (p : Byte) : Option RegAddr :=
  if p.toNat ≤ 5 then some (BitVec.ofNat 5 (0x0A + p.toNat)) else none

/-- `READ_FILL`, the byte sent while a data byte is read (R8, D10). -/
def readFill : Byte := 0xFF#8

/-- The byte the engine is about to send, or the fault of R290 (a) where it is an unwritten latch byte (R39, R130). -/
def sourceByte (src : ByteSource) (s : State) : Except Fault Byte :=
  match src with
  | .const b => .ok b
  | .addrl i =>
    match s.addrl[i]?.join with
    | some b => .ok b
    | none   => .error (.unwrittenLatch .addrl i)
  | .txb i =>
    match s.txb[i]?.join with
    | some b => .ok b
    | none   => .error (.unwrittenLatch .txb i)
  | .modify keep set => .ok (s.tmp &&& keep ||| set)

/-- `Frame(c, outs, nrd)` (R130), its data bytes to come from `outs` or to go to `dsts`. -/
def frameOps (c : Byte) (outs : List ByteSource) (dsts : List ByteDest) : List MicroOp :=
  .driveCS false :: .cmd c :: (outs.map .out ++ dsts.map .read ++ [.driveCS true])

/-- `WriteReg(a, bytes)` (R134). -/
def writeRegOps (a : RegAddr) (bytes : List ByteSource) : List MicroOp := frameOps (wcmd a) bytes []

/-- `ReadReg(a)` (R135). -/
def readRegOps (a : RegAddr) (dst : ByteDest) : List MicroOp := frameOps (rcmd a) [] [dst]

/-- The five bytes of the address latch in index order (R38, R74). -/
def addrlBytes : List ByteSource := [.addrl 0, .addrl 1, .addrl 2, .addrl 3, .addrl 4]

end Sys2Proof.Machine
end

