-- ==== Sys2Proof/Machine/Radio.lean ====
section
/-! DEFINITION. The radio's side of the bus (spec 40_register_access part 3, 44_transmit R240, 10_state R49, R50): how RADIO
reacts to each bus event, and the byte it answers. -/

namespace Sys2Proof.Machine

/-- `RADIO_STORE(a, v)` (R8): the first listed exception, else `v` itself. -/
def radioStore (p : Params) (a : RegAddr) (v : Byte) : Byte :=
  match p.storeRows.find? (fun row => row.addr == a && row.wrote == v) with
  | some row => row.kept
  | none     => v

/-- The radio is Listening: CE high and PRIM_RX = 1 (R49). -/
def Radio.listening (r : Radio) : Bool := r.ceSeen && r.reg1[0].getLsbD 0

/-- Byte `k` of register `a` as an R_REGISTER data phase reads it (R73, R147); `none` where the answer is `Draw8()`:
an unmapped address, or a position past the register's size. -/
def Radio.readAt (p : Params) (a : RegAddr) (k : Nat) (r : Radio) : Option Byte :=
  match regName a with
  | .one i    => if k = 0 then some r.reg1[i] else none
  | .status   => if k = 0 then some (statusValue p r) else none
  | .five j   => r.reg5[j][k]?
  | .unmapped => none

/-- The effect of data byte `k`, value `m`, of a W_REGISTER frame to `a` (R148): RADIO_STORE, W1C or the k-th byte;
bytes past the register's size are ignored; an unmapped address sets the refusal mark (R76). -/
def Radio.writeAt (p : Params) (a : RegAddr) (k : Nat) (m : Byte) (r : Radio) : Radio :=
  match regName a with
  | .one i    => if k = 0 then { r with reg1 := r.reg1.set i (radioStore p a m) } else r
  | .status   => if k = 0 then w1c p m r else r
  | .five j   => { r with reg5 := r.reg5.set j (r.reg5[j].setIfInBounds k m) }
  | .unmapped => { r with radioUnknown := true }

/-- RADIO at `EvCS(l)` (R145, R151, R153). -/
def Radio.onCS (l : Bool) (r : Radio) : Radio :=
  match l, r.inFrame with
  | false, false => { r with inFrame := true, fcmd := .none, fidx := 0, facc := [] }
  | true, true =>
    { r with
      txq := if r.fcmd = .wTxPl then r.txq ++ [r.facc] else r.txq
      rxq := if r.fcmd = .rRxPl ∧ 1 ≤ r.fidx then r.rxq.tail else r.rxq
      inFrame := false
      fcmd := .none }
  | _, _ => r

/-- RADIO at `EvCE(l)` (R240). -/
def Radio.onCE (l : Bool) (r : Radio) : Radio :=
  match l with
  | true => { r with ceWasHigh := r.ceWasHigh || !r.ceSeen, ceSeen := true }
  | false =>
    { r with
      txPending :=
        if r.ceSeen ∧ r.ceWasHigh ∧ r.reg1[0].getLsbD 0 = false ∧ r.txq ≠ [] then r.txPending + 1 else r.txPending
      ceSeen := false
      ceWasHigh := false }

/-- The decoded command as the frame decoder holds it (R47, R146). A host command is never a command byte. -/
def frameCmdOf : Instr → FrameCmd
  | .rRegister a => .rReg a
  | .wRegister a => .wReg a
  | .wTxPayload  => .wTxPl
  | .rRxPayload  => .rRxPl
  | .writeReg _ _ | .readReg _ | .beginRadio | .setChannel _ | .setPaLevel _ | .openWritingPipe | .openReadingPipe _
  | .startListening | .stopListening | .writePayload _ | .available | .readPayload _ => .none

/-- RADIO takes the command byte `m` (R146): decode, or the refusal mark for an UNLISTED byte (R106). -/
def Radio.onCommand (m : Byte) (r : Radio) : Radio :=
  match decodeSpi m with
  | .ok i    => { r with fcmd := frameCmdOf i, fidx := 0 }
  | .error _ => { r with radioUnknown := true }

/-- The MISO byte of `EvXfer(m, s)`, computed from the radio as it stands before the step (R50): the STATUS snapshot in a
command byte (R146), register or payload bytes (R147, R150), else the free byte `draw` (R147-R150, R152, R291). -/
def Radio.miso (p : Params) (draw : Byte) (r : Radio) : Byte :=
  if r.radioUnknown || !r.inFrame then draw
  else
    match r.fcmd with
    | .none   => statusValue p r
    | .rReg a => (r.readAt p a r.fidx).getD draw
    | .wReg _ => draw
    | .wTxPl  => draw
    | .rRxPl  => ((r.rxq.headD [])[r.fidx]?).getD draw

/-- RADIO after `EvXfer(m, s)` (R146-R150, R152). `fidx` counts the data bytes of every
frame (R47). DEDUCED for W_TX_PAYLOAD (log entry 16). -/
def Radio.onXfer (p : Params) (m : Byte) (r : Radio) : Radio :=
  if r.inFrame then
    match r.fcmd with
    | .none   => r.onCommand m
    | .rReg _ => { r with fidx := r.fidx + 1 }
    | .wReg a => { r.writeAt p a r.fidx m with fidx := r.fidx + 1 }
    | .wTxPl  => { r with facc := r.facc ++ [m], fidx := r.fidx + 1 }
    | .rRxPl  => { r with fidx := r.fidx + 1 }
  else { r with radioUnknown := true }

/-! ### The RF engine -/

/-- Whether an RF step may happen (R292: always; R293: only where a trigger or Listening allows it). -/
def rfEnabled (p : Params) (x : RfStep) (r : Radio) : Bool :=
  if p.rfCausal then
    match x with
    | .txDone => decide (0 < r.txPending)
    | .txFail => decide (0 < r.txPending)
    | .rx _   => r.listening
    | .txDrop => false
  else true

/-- The effect of an enabled RF step (R292); under RF_CAUSAL each transmit outcome resolves one trigger (R293). -/
def rfEffect (p : Params) (x : RfStep) (r : Radio) : Radio :=
  match x with
  | .txDone =>
    { r with
      fTxDs := true
      txq := r.txq.tail
      txPending := if p.rfCausal then r.txPending - 1 else r.txPending }
  | .txFail =>
    { r with
      fMaxRt := true
      txPending := if p.rfCausal then r.txPending - 1 else r.txPending }
  | .rx b => { r with rxq := r.rxq ++ [b], fRxDr := true }
  | .txDrop => { r with txq := r.txq.tail }

/-- An RF step: one that is not enabled does not happen. -/
def rfStep (p : Params) (x : RfStep) (r : Radio) : Radio :=
  if rfEnabled p x r then rfEffect p x r else r

end Sys2Proof.Machine
end

