-- ==== Sys2Proof/Machine/Ops.lean ====
section
/-! DEFINITION. The named operations of the machine (spec 00_scope R11, 10_state R31, 60_exceptions R280, 70_reset R311): the
bus events with the radio's reaction, the settling ticks, accept, end step, error ending and reset; the engine's step; the
host's and the RF engine's moves; and the run of one command or of one frame. -/

namespace Sys2Proof.Machine

/-- The outcome of a step of this machine. -/
abbrev Result := Host.Outcome State Fault Refusal

/-! ### Named updates -/

/-- The sequencer moves to the position `k` (R22). -/
def State.withSeq (s : State) (k : List MicroOp) : State := { s with seq := k }

/-- The schedule goes on with `e`. -/
def State.withEnv (s : State) (e : List EnvStep) : State := { s with env := e }

/-! ### The radio inside a step -/

/-- A transition of the radio (R50, R292). Where the radio is or becomes unknown, nothing is known of it afterwards but the
mark itself (R51, R291): it becomes a free value. -/
def State.react (s : State) (f : Radio → Radio) : State :=
  { s with
    radio :=
      if (f s.radio).radioUnknown || s.radio.radioUnknown then
        { Config.freeRadio s.draws with radioUnknown := true }
      else f s.radio
    draws := s.draws + 1 }

/-! ### Bus events (R11) -/

/-- `DriveCS(l)`: the line, the event, the radio's reaction, and the load of the `Settle()` that follows (R210, R211). -/
def driveCS (l : Bool) (s : State) : State :=
  { s.react (Radio.onCS l) with csN := l, settleCnt := s.cfg.settleTicks, trace := .cs l :: s.trace }

/-- `DriveCE(l)`: the line, the event, the radio's reaction, and the load of the `Settle()` that follows (R210, R211). -/
def driveCE (l : Bool) (s : State) : State :=
  { s.react (Radio.onCE l) with ce := l, settleCnt := s.cfg.settleTicks, trace := .ce l :: s.trace }

/-- The MISO byte the radio answers in this step (R50). -/
def State.misoByte (s : State) : Byte := s.radio.miso s.cfg (Config.freeByte s.draws)

/-- `Xfer(m)`: one byte exchange (R11, R79). -/
def xfer (m : Byte) (s : State) : State :=
  { s.react (Radio.onXfer s.cfg m) with trace := .xfer m s.misoByte :: s.trace }

/-- The exchange of a frame's command byte: LSTAT takes the MISO byte (R130, R132). -/
def commandByte (c : Byte) (s : State) : State := { xfer c s with lstat := s.misoByte }

/-- The exchange of a data byte the engine reads (R26, R133, R239, R261). -/
def readDataByte (dst : ByteDest) (s : State) : State :=
  match dst with
  | .tmp   => { xfer readFill s with tmp := s.misoByte }
  | .poll  => { xfer readFill s with tmp := s.misoByte, pollCnt := s.pollCnt + 1 }
  | .rxb i => { xfer readFill s with rxb := s.rxb.set i (some s.misoByte) }

/-! ### Steps of the engine without a bus transaction (R31) -/

/-- One tick of a `Settle()` in a running command (R210). -/
def settleTick (s : State) : State := { s with settleCnt := s.settleCnt - 1, trace := .tick :: s.trace }

/-- A step of RESET_SETTLE (R312): a tick, and after the last one the engine is IDLE. DEDUCED (log entry 15): the last tick itself
sets IDLE. -/
def resetTick (s : State) : State :=
  if s.settleCnt = 0 then { s with phase := .idle, busy := false }
  else if s.settleCnt = 1 then { settleTick s with phase := .idle, busy := false }
  else settleTick s

/-- The accept step (R31): takes the word `w` off CMDW, loads OP, A, V (R23) and points `seq` at the command's
procedure. -/
def accept (w : Word) (procedure : List MicroOp) (s : State) : State :=
  { s with
    cmdw := none
    phase := .run
    busy := true
    rvalid := false
    op := opOf w
    a := aOf w
    v := vOf w
    seq := procedure }

/-- What the end step leaves in the result registers (R31, R34-R36). -/
def complete (code : ResultCode) (flag : Bool) (s : State) : State :=
  { s with rcode := code, rflag := flag, busy := false, rvalid := true, phase := .idle, seq := [] }

/-- `raise Err(code)`: the error ending (R280), the block's one way to take an error. RDATA, LSTAT, the latches and the
radio stay as they are and no bus event occurs; there is no trap entry (R287) and no return (R288). -/
def raiseError (code : ResultCode) (s : State) : State := complete code false s

/-- The end step (R31) of a procedure that ends as `e` says. -/
def endStep (e : Ending) (s : State) : State :=
  match e with
  | .flag b     => complete .ok b s
  | .data       => { complete .ok false s with rdata := s.tmp }
  | .ready      => complete .ok (hasFlag (rxDrMask s.cfg) s.tmp) s
  | .error code => raiseError code s

/-- The reset step (R311): every engine and host-register value of R53; the latches, the parameters and CMDW keep theirs.
A line that has to move emits its event, CS_N first (D36). DEDUCED: CMDW stays (log entry 7); the lines move at once, also inside a
settling period (log entry 14). -/
def resetStep (s : State) : State :=
  let s := if s.csN then s else driveCS true s
  let s := if s.ce then driveCE false s else s
  { s with
    phase := .resetSettle
    seq := []
    settleCnt := s.cfg.settleTicks
    busy := true
    rvalid := false
    rcode := .ok
    rflag := false
    rdata := 0x00#8
    lstat := 0x00#8
    op := 0#4
    a := 0#5
    v := 0#8
    pollCnt := 0
    tmp := 0x00#8 }

/-! ### The engine's step (R22, R31) -/

/-- The loop condition of the transmit poll (R230, R239): one more poll, or what stands after the loop. -/
def pollAgain (s : State) (after : List MicroOp) : List MicroOp :=
  if s.pollCnt < s.cfg.pollMax then readRegOps 0x07#5 .poll ++ .pollTest :: after else after

/-- Resolution of a poll by the flag `mask` (R235, R236): clear that flag alone, then end. -/
def pollResolved (mask : Byte) (success : Bool) : List MicroOp :=
  writeRegOps 0x07#5 [.const mask] ++ [.finish (.flag success)]

/-- The position of the next event primitive or end step: the pure tests before it take no step of their own (R22). -/
def resolve (s : State) : List MicroOp :=
  match s.seq with
  | .pollLoop :: after => pollAgain s after
  | .pollTest :: after =>
    if hasFlag (txDsMask s.cfg) s.tmp then pollResolved (txDsMask s.cfg) true
    else if hasFlag (maxRtMask s.cfg) s.tmp then pollResolved (maxRtMask s.cfg) false
    else pollAgain s after
  | ops => ops

/-- The effect of one position of a procedure, `seq` already standing past it: an event primitive, or the end step. A pure
test has none of its own: `resolve` has replaced it by what it leads to. -/
def primitive (op : MicroOp) (s : State) : Result :=
  match op with
  | .driveCS l => .next (driveCS l s)
  | .driveCE l => .next (driveCE l s)
  | .cmd c     => .next (commandByte c s)
  | .out src   =>
    match sourceByte src s with
    | .ok b    => .next (xfer b s)
    | .error f => .fault f
  | .read dst  => .next (readDataByte dst s)
  | .finish e  => .next (endStep e s)
  | .pollLoop  => .next s
  | .pollTest  => .next s

/-- The engine's step in RUN when no settling is left: one event primitive or the end step. A procedure with nothing left
occurs in no run: every procedure ends in its end step. -/
def microStep (s : State) : Result :=
  match resolve s with
  | op :: rest => primitive op (s.withSeq rest)
  | []         => .next s

/-- One step of the engine with no command to accept. In IDLE it has none and the state stays. -/
def engineStep (s : State) : Result :=
  match s.phase with
  | .idle        => .next s
  | .resetSettle => .next (resetTick s)
  | .run         => if s.settleCnt = 0 then microStep s else .next (settleTick s)

/-! ### The host's moves (R299) -/

/-- Whether the host's step has a move: an issue and a latch access only when IDLE (R33, R38, R87), an issue only when the one
pending write has been accepted; the wait ends when no command runs or is pending (R119; DEDUCED, log entry 17). -/
def hostEnabled (h : HostStep) (s : State) : Bool :=
  match h with
  | .await             => s.phase = .idle && s.cmdw.isNone
  | .issue _           => s.phase = .idle && s.cmdw.isNone
  | .writeAddrl _ _    => s.phase = .idle
  | .writeTxb _ _      => s.phase = .idle
  | .read (.latch _ _) => s.phase = .idle
  | .read _            => true

/-- The value of RCODE (R35). -/
def ResultCode.bits : ResultCode → BitVec 2
  | .ok      => 0#2
  | .errCmd  => 1#2
  | .errPipe => 2#2
  | .errLen  => 3#2

/-- A bit as the host reads it. -/
def bitByte (b : Bool) : Byte := (BitVec.ofBool b).setWidth 8

/-- The bytes of a latch (R32 idx 7-9). -/
def State.latch (s : State) (name : LatchName) : List (Option Byte) :=
  match name with
  | .addrl => s.addrl.toList
  | .txb   => s.txb
  | .rxb   => s.rxb

/-- A host read returned `b`. -/
def hostGot (b : Byte) (s : State) : Result := .next { s with hostData := b }

/-- A read of RCODE, RFLAG or RDATA: only while RVALID = 1 (R34, R290 c). -/
def readResult (b : Byte) (s : State) : Result := if s.rvalid then hostGot b s else .refused .resultNotValid

/-- The fault of a host read of an unwritten latch byte (R39, R290). DEDUCED for ADDRL and TXB (log entry 13). -/
def unwrittenFault (name : LatchName) (i : Nat) : Fault :=
  match name with
  | .addrl => .unwrittenLatch .addrl i
  | .txb   => .unwrittenLatch .txb i
  | .rxb   => .unwrittenRxb i

/-- A host read of latch byte `i`. DESIGN CHOICE (log entry 9): a byte past the latch's size faults. -/
def readLatch (name : LatchName) (i : Nat) (s : State) : Result :=
  match (s.latch name)[i]? with
  | some (some b) => hostGot b s
  | some none     => .fault (unwrittenFault name i)
  | none          => .fault (.noSuchLatchByte name i)

/-- A host read (R32). DESIGN CHOICE (log entry 9): the value goes to `hostData`, and CMDW is refused. -/
def hostRead (r : HostReg) (s : State) : Result :=
  match r with
  | .cmdw         => .refused .writeOnly
  | .busy         => hostGot (bitByte s.busy) s
  | .rvalid       => hostGot (bitByte s.rvalid) s
  | .rcode        => readResult (s.rcode.bits.setWidth 8) s
  | .rflag        => readResult (bitByte s.rflag) s
  | .rdata        => readResult s.rdata s
  | .lstat        => hostGot s.lstat s
  | .latch name i => readLatch name i s
  | .csN          => hostGot (bitByte s.csN) s
  | .ce           => hostGot (bitByte s.ce) s

/-- A step of the host that has a move. -/
def hostStep (h : HostStep) (s : State) : Result :=
  match h with
  | .await => .next s
  | .issue w => .next { s with cmdw := some w }
  | .writeAddrl i b =>
    if i < 5 then .next { s with addrl := s.addrl.setIfInBounds i (some b) } else .fault (.noSuchLatchByte .addrl i)
  | .writeTxb i b =>
    if i < s.txb.length then .next { s with txb := s.txb.set i (some b) } else .fault (.noSuchLatchByte .txb i)
  | .read r => hostRead r s

/-! ### Scheduling (R14, R83) -/

/-- One step of the whole machine, the engine's own step being `engine`: the head of the schedule moves; a host step that has
no move waits and the engine moves; with no schedule the engine moves. DESIGN CHOICE (log entry 3). -/
def scheduled (engine : State → Result) (s : State) : Result :=
  match s.env with
  | []              => engine s
  | .engine :: rest => engine (s.withEnv rest)
  | .reset :: rest  => .next (resetStep (s.withEnv rest))
  | .rf x :: rest   => .next ((s.withEnv rest).react (rfStep s.cfg x))
  | .host h :: rest => if hostEnabled h s then hostStep h (s.withEnv rest) else engine s

/-- One step of the whole machine inside a command. -/
def move (s : State) : Result := scheduled engineStep s

/-- Moves until `done`, at most as many as the first argument says. -/
def runUntil (done : State → Bool) : Nat → State → Result
  | 0, s => .next s
  | n + 1, s =>
    if done s then .next s
    else
      match move s with
      | .next t    => runUntil done n t
      | .fault f   => .fault f
      | .refused r => .refused r

/-! ### Commands and frames -/

/-- Enough engine steps for any command: the bound of R331. -/
def commandBound (p : Params) : Nat :=
  max (35 + 17 * p.settleTicks) (11 + p.payloadMax + 4 * p.pollMax + (6 + 2 * p.pollMax) * p.settleTicks)

/-- The command has ended, or a reset has abandoned it. -/
def commandDone (s : State) : Bool := s.phase != .run

/-- The run of an accepted command to its end, the environment's moves falling between the engine's (R79, R331). -/
def runCommand (s : State) : Result := runUntil commandDone (s.env.length + commandBound s.cfg) s

/-- A host command whose word is `w`: accept, then its procedure. A command is accepted only when IDLE; until then it waits
and nothing moves here (R33). DESIGN CHOICE (log entry 11). -/
def hostCommand (w : Word) (procedure : List MicroOp) (s : State) : Result :=
  if s.phase = .idle then runCommand (accept w procedure s) else .next s

/-- The command word of a host instruction; an SPI command has none. -/
def commandWord (i : Instr) : Word :=
  match encode i with
  | .host w => w
  | .spi _  => 0#32

/-- A word that decodes to BAD: accept, then ERR_CMD (R113, R281). -/
def badCommand (w : Word) (s : State) : Result := hostCommand w [.finish (.error .errCmd)] s

/-- The engine stands at a frame's command byte: the next thing it does is to exchange it (R130). -/
def atCommandByte (s : State) : Option Byte :=
  match s.phase, s.settleCnt, s.seq with
  | .run, 0, .cmd c :: _ => some c
  | _, _, _              => none

/-- The frame has ended and its last `Settle()` with it, or the command is over. -/
def frameDone (s : State) : Bool := s.phase != .run || (s.csN && s.settleCnt == 0)

/-- The run of an SPI command: the exchange of its command byte `c`, the data bytes the engine's procedure puts after it, and
the end of the frame (R130). DESIGN CHOICE (log entry 11): where the engine does not stand at a command byte, no byte is exchanged
and nothing moves. -/
def spiFrame (c : Byte) (s : State) : Result :=
  match atCommandByte s with
  | some _ =>
    runUntil frameDone (s.env.length + (s.seq.length + 1) * (s.cfg.settleTicks + 1))
      (commandByte c (s.withSeq s.seq.tail))
  | none => .next s

end Sys2Proof.Machine
end

