-- ==== Sys2Proof/Machine/Configuration.lean ====
section
/-! DEFINITION. The configuration commands (spec 41_configuration). -/

namespace Sys2Proof.Machine

/-- BEGIN_TABLE (R171): the register writes of BEGIN, in order. -/
def beginTable : List (RegAddr × Byte) :=
  [ (0x00#5, 0x0F#8), (0x01#5, 0x3F#8), (0x02#5, 0x03#8), (0x03#5, 0x03#8),
    (0x04#5, 0x04#8), (0x05#5, 0x02#8), (0x06#5, 0x07#8), (0x07#5, 0x70#8) ]

/-- The procedure of BEGIN (R170). -/
def procBegin : List MicroOp :=
  .driveCE false :: beginTable.flatMap (fun row => writeRegOps row.1 [.const row.2]) ++ [.finish (.flag false)]

/-- BEGIN (R170). -/
def execBegin (s : State) : Result := hostCommand (commandWord .beginRadio) procBegin s

/-- The procedure of SET_CHANNEL (R173): no range check. -/
def procSetChannel (channel : Byte) : List MicroOp :=
  writeRegOps 0x05#5 [.const channel] ++ [.finish (.flag false)]

/-- SET_CHANNEL (R173). -/
def execSetChannel (channel : Byte) (s : State) : Result :=
  hostCommand (commandWord (.setChannel channel)) (procSetChannel channel) s

/-- The procedure of SET_PA_LEVEL (R174): read RF_SETUP, write `(r & 0xF8) | (V & 0x07)`. -/
def procSetPaLevel (level : Byte) : List MicroOp :=
  readRegOps 0x06#5 .tmp ++ writeRegOps 0x06#5 [.modify 0xF8#8 (level &&& 0x07#8)] ++ [.finish (.flag false)]

/-- SET_PA_LEVEL (R174). -/
def execSetPaLevel (level : Byte) (s : State) : Result :=
  hostCommand (commandWord (.setPaLevel level)) (procSetPaLevel level) s

end Sys2Proof.Machine
end

