-- ==== Sys2Proof/Machine/ModeControl.lean ====
section
/-! DEFINITION. The mode commands (spec 43_mode_control). -/

namespace Sys2Proof.Machine

/-- The procedure of START_LISTENING (R213): set PRIM_RX, then raise CE. -/
def procStartListening : List MicroOp :=
  readRegOps 0x00#5 .tmp ++ writeRegOps 0x00#5 [.modify 0xFF#8 0x01#8] ++ [.driveCE true, .finish (.flag false)]

/-- START_LISTENING (R213). -/
def execStartListening (s : State) : Result :=
  hostCommand (commandWord .startListening) procStartListening s

/-- The procedure of STOP_LISTENING (R214): lower CE first (R215), then clear PRIM_RX. -/
def procStopListening : List MicroOp :=
  .driveCE false :: (readRegOps 0x00#5 .tmp ++ writeRegOps 0x00#5 [.modify 0xFE#8 0x00#8] ++ [.finish (.flag false)])

/-- STOP_LISTENING (R214). -/
def execStopListening (s : State) : Result :=
  hostCommand (commandWord .stopListening) procStopListening s

end Sys2Proof.Machine
end

