-- ==== Sys2Proof/Machine/Pipes.lean ====
section
/-! DEFINITION. The pipe commands (spec 42_pipes). -/

namespace Sys2Proof.Machine

/-- The procedure of OPEN_WRITING_PIPE (R191): ADDRL[0..4] to TX_ADDR, register 0x10 (conflict C7). -/
def procOpenWritingPipe : List MicroOp := writeRegOps 0x10#5 addrlBytes ++ [.finish (.flag false)]

/-- OPEN_WRITING_PIPE (R191). -/
def execOpenWritingPipe (s : State) : Result :=
  hostCommand (commandWord .openWritingPipe) procOpenWritingPipe s

/-- The procedure of OPEN_READING_PIPE (R192): ERR_PIPE with no bus event, or ADDRL[0..4] to the pipe's register. -/
def procOpenReadingPipe (pipe : Byte) : List MicroOp :=
  match pipeTarget pipe with
  | none   => [.finish (.error .errPipe)]
  | some a => writeRegOps a addrlBytes ++ [.finish (.flag false)]

/-- OPEN_READING_PIPE (R192). -/
def execOpenReadingPipe (pipe : Byte) (s : State) : Result :=
  hostCommand (commandWord (.openReadingPipe pipe)) (procOpenReadingPipe pipe) s

end Sys2Proof.Machine
end

