-- ==== Sys2Proof/Machine/Receive.lean ====
section
/-! DEFINITION. The receive commands (spec 45_receive). -/

namespace Sys2Proof.Machine

/-- The procedure of AVAILABLE (R260): one STATUS read, RX_DR alone is tested. -/
def procAvailable : List MicroOp := readRegOps 0x07#5 .tmp ++ [.finish .ready]

/-- AVAILABLE (R260). -/
def execAvailable (s : State) : Result := hostCommand (commandWord .available) procAvailable s

/-- The procedure of READ_PAYLOAD (R261): ERR_LEN with no bus event, or the payload frame into RXB and the unconditional clear
of RX_DR (R263). -/
def procReadPayload (p : Params) (len : Byte) : List MicroOp :=
  if p.payloadMax < len.toNat then [.finish (.error .errLen)]
  else
    frameOps 0x61#8 [] ((List.range len.toNat).map .rxb) ++ writeRegOps 0x07#5 [.const (rxDrMask p)]
      ++ [.finish (.flag false)]

/-- READ_PAYLOAD (R261). -/
def execReadPayload (len : Byte) (s : State) : Result :=
  hostCommand (commandWord (.readPayload len)) (procReadPayload s.cfg len) s

end Sys2Proof.Machine
end

