-- ==== Sys2Proof/Machine/RegisterAccess.lean ====
section
/-! DEFINITION. The host commands of the Register Access Layer (spec 40_register_access part 2). -/

namespace Sys2Proof.Machine

/-- The procedure of WRITE_REG (R140). -/
def procWriteReg (a : RegAddr) (v : Byte) : List MicroOp :=
  writeRegOps a [.const v] ++ [.finish (.flag false)]

/-- WRITE_REG (R140). -/
def execWriteReg (a : RegAddr) (v : Byte) (s : State) : Result :=
  hostCommand (commandWord (.writeReg a v)) (procWriteReg a v) s

/-- The procedure of READ_REG (R141). -/
def procReadReg (a : RegAddr) : List MicroOp := readRegOps a .tmp ++ [.finish .data]

/-- READ_REG (R141). -/
def execReadReg (a : RegAddr) (s : State) : Result :=
  hostCommand (commandWord (.readReg a)) (procReadReg a) s

end Sys2Proof.Machine
end

