-- ==== Sys2Proof/Machine/SpiCommands.lean ====
section
/-! DEFINITION. The four SPI commands (spec 40_register_access part 3): the engine exchanges the command byte, the radio decodes
it, and the frame's data bytes and its end follow as the radio's rules say. -/

namespace Sys2Proof.Machine

/-- R_REGISTER (R101, R147): the radio answers the frame's data bytes with the bytes of register `a`. -/
def execRRegister (a : RegAddr) (s : State) : Result := spiFrame (rcmd a) s

/-- W_REGISTER (R102, R148): the frame's data bytes go to register `a`, each in its own exchange. -/
def execWRegister (a : RegAddr) (s : State) : Result := spiFrame (wcmd a) s

/-- W_TX_PAYLOAD (R103, R149, R151): the frame's data bytes are one payload, pushed to `txq` at the rise of CS_N. -/
def execWTxPayload (s : State) : Result := spiFrame 0xA0#8 s

/-- R_RX_PAYLOAD (R104, R150, R151): the radio answers with the head payload of `rxq` and drops it at the rise of CS_N. -/
def execRRxPayload (s : State) : Result := spiFrame 0x61#8 s

end Sys2Proof.Machine
end

