-- ==== Sys2Proof/Machine/Transmit.lean ====
section
/-! DEFINITION. The transmit command (spec 44_transmit). -/

namespace Sys2Proof.Machine

/-- The procedure of WRITE_PAYLOAD (R230): ERR_LEN with no bus event (R231), or payload frame (R232), trigger pulse (R233),
bounded poll (R234-R237). What stands after the loop is the timeout's end step: RFLAG 0 and no clear (R237). -/
def procWritePayload (payloadMax : Nat) (len : Byte) : List MicroOp :=
  if payloadMax < len.toNat then [.finish (.error .errLen)]
  else
    frameOps 0xA0#8 ((List.range len.toNat).map .txb) [] ++ [.driveCE true, .driveCE false]
      ++ [.pollLoop, .finish (.flag false)]

/-- WRITE_PAYLOAD (R230); its accept step sets `poll_cnt` to 0 (R25, R239). -/
def execWritePayload (len : Byte) (s : State) : Result :=
  hostCommand (commandWord (.writePayload len)) (procWritePayload s.cfg.payloadMax len)
    (if s.phase = .idle then { s with pollCnt := 0 } else s)

end Sys2Proof.Machine
end

