-- ==== Sys2Proof/Machine/Dispatch.lean ====
section
/-! DEFINITION. One arm per instruction of the opcode table, each a direct call of that instruction's meaning. -/

namespace Sys2Proof.Machine

def exec (i : Instr) (s : State) : Host.Outcome State Fault Refusal :=
  match i with
  | .rRegister a => Sys2Proof.Machine.execRRegister a s
  | .wRegister a => Sys2Proof.Machine.execWRegister a s
  | .wTxPayload => Sys2Proof.Machine.execWTxPayload s
  | .rRxPayload => Sys2Proof.Machine.execRRxPayload s
  | .writeReg a v => Sys2Proof.Machine.execWriteReg a v s
  | .readReg a => Sys2Proof.Machine.execReadReg a s
  | .beginRadio => Sys2Proof.Machine.execBegin s
  | .setChannel channel => Sys2Proof.Machine.execSetChannel channel s
  | .setPaLevel level => Sys2Proof.Machine.execSetPaLevel level s
  | .openWritingPipe => Sys2Proof.Machine.execOpenWritingPipe s
  | .openReadingPipe pipe => Sys2Proof.Machine.execOpenReadingPipe pipe s
  | .startListening => Sys2Proof.Machine.execStartListening s
  | .stopListening => Sys2Proof.Machine.execStopListening s
  | .writePayload len => Sys2Proof.Machine.execWritePayload len s
  | .available => Sys2Proof.Machine.execAvailable s
  | .readPayload len => Sys2Proof.Machine.execReadPayload len s

end Sys2Proof.Machine
end

