-- ==== Sys2Proof/Machine/Step.lean ====
section
/-! DEFINITION. The step of the machine: the scheduled agent moves (spec 00_scope R14, 20_memory R83). When the engine is to
move and stands at an instruction, the step runs that instruction whole, the environment's moves falling between the engine's;
elsewhere the step is one step of the engine (10_state R31). -/

namespace Sys2Proof.Machine

/-- The engine's turn: the word pending on CMDW when IDLE (R31, R113), the SPI command at a frame's command byte (R130, R105),
else one step of the engine. DESIGN CHOICE (log entry 12): an instruction is run whole. -/
def engineTurn (s : State) : Host.Outcome State Fault Refusal :=
  match s.phase, s.cmdw with
  | .idle, some w =>
    match decodeHost w with
    | .ok i    => exec i s
    | .error _ => badCommand w s
  | _, _ =>
    match atCommandByte s with
    | some c =>
      match decodeSpi c with
      | .ok i    => exec i s
      | .error _ => engineStep s
    | none => engineStep s

/-- One step of the machine. -/
def step (s : State) : Host.Outcome State Fault Refusal := scheduled engineTurn s

/-- `s` with the instruction whose `nbits` bits are `w` where the next step fetches it, the engine being the agent that moves.
32 bits: the word stands on CMDW and the engine is IDLE between frames. 8 bits: the byte is the command byte of an open
frame; its data phase is one byte, read or written as the command's direction says (R133), the byte written being 0. DESIGN CHOICE
(log entry 10). -/
def State.withFetchWord (s : State) (nbits w : Nat) : State :=
  if nbits = 32 then
    { s with
      phase := .idle
      seq := []
      settleCnt := 0
      busy := false
      csN := true
      radio := { s.radio with inFrame := false, fcmd := .none }
      cmdw := some (BitVec.ofNat 32 w)
      env := .engine :: s.env }
  else if nbits = 8 then
    { s with
      phase := .run
      seq :=
        .cmd (BitVec.ofNat 8 w)
          :: (match decodeSpi (BitVec.ofNat 8 w) with
              | .ok (.rRegister _) => .read .tmp
              | .ok .rRxPayload    => .read (.rxb 0)
              | _                  => .out (.const 0x00#8))
          :: [.driveCS true, .finish (.flag false)]
      settleCnt := 0
      busy := true
      rvalid := false
      csN := false
      radio := { s.radio with inFrame := true, fcmd := .none, fidx := 0, facc := [] }
      env := .engine :: s.env }
  else s

end Sys2Proof.Machine
end

