-- ==== Sys2Proof/Machine/Assembler.lean ====
section
/-! DEFINITION. The assembler of the spec's text syntax (30_encoding R118-R120): what the host does for a line of a program. A
command line is one word issued on CMDW; a directive is host writes to a latch (R119), a byte at a time (R87). -/

namespace Sys2Proof.Machine

/-- A latch directive: the host waits until every command issued before has ended, then writes `bytes` to the latch from index 0 up
(R119: "the host waits for `BUSY = 0` before each one"). -/
def latchWrites (write : Nat → Byte → HostStep) (bytes : List Nat) : List HostStep :=
  .await :: bytes.zipIdx.map (fun x => write x.2 (BitVec.ofNat 8 x.1))

/-- The host steps of a line; nothing for an ill-formed line: "It does not become a word" (R118). -/
def AsmLine.assemble (payloadMax : Nat) (line : AsmLine) : Option (List HostStep) :=
  if line.wellFormed payloadMax then
    match line with
    | .addr bs => some (latchWrites .writeAddrl bs)
    | .txb bs  => some (latchWrites .writeTxb bs)
    | .word w  => some [.issue (BitVec.ofNat 32 w)]
    | .writeReg _ _ | .readReg _ | .beginRadio | .setChannel _ | .setPaLevel _ | .openWritingPipe | .openReadingPipe _
    | .startListening | .stopListening | .write _ | .available | .read _ =>
      line.command?.map (fun i => [.issue (commandWord i)])
  else none

/-- The schedule of a host program: its lines in order, each step waiting until it has a move (R119, R299); nothing if a line is
ill formed. -/
def assembleProgram (payloadMax : Nat) : List AsmLine → Option (List EnvStep)
  | [] => some []
  | line :: rest =>
    match AsmLine.assemble payloadMax line, assembleProgram payloadMax rest with
    | some steps, some more => some (steps.map .host ++ more)
    | _, _                  => none

end Sys2Proof.Machine
end

