-- ==== Sys2Proof/Safety.lean ====
section
/-! DEFINITION. The terms the statements about the machine use: when the machine is ready for a command or stands at a
command byte, what a completed command leaves, the bus trace of a frame, the invariant of the machine, and the rules of
framing and settling as predicates on the bus trace. No step uses any of these. -/

namespace Sys2Proof.Machine

/-! ### Hypotheses of the statements -/

/-- The machine is IDLE with no settling left, the radio is between frames and known, and the environment makes no move of its
own during the command ("no RF step", as the vectors of 95_test_vectors assume). -/
abbrev State.Ready (s : State) : Prop :=
  s.phase = .idle ∧ s.settleCnt = 0 ∧ s.radio.inFrame = false ∧ s.radio.radioUnknown = false ∧ s.env = []

/-- The engine stands at the command byte `c` of an open frame of a known radio, `rest` being what its procedure does after it;
the radio's decoder is as the frame's start leaves it (R145), and the environment makes no move of its own. -/
abbrev State.AtCommand (s : State) (c : Byte) (rest : List MicroOp) : Prop :=
  s.phase = .run ∧ s.settleCnt = 0 ∧ s.seq = .cmd c :: rest ∧ s.csN = false ∧ s.radio.inFrame = true
    ∧ s.radio.fcmd = .none ∧ s.radio.facc = [] ∧ s.radio.radioUnknown = false ∧ s.env = []

/-! ### What commands leave -/

/-- What every completed command leaves in the engine and the result registers (R23, R31, R34-R36): OP, A, V of its word, the
word taken off CMDW, IDLE, BUSY 0, RVALID 1, the result code and the flag. -/
def State.finished (s : State) (w : Word) (code : ResultCode) (flag : Bool) : State :=
  { s with
    phase := .idle
    seq := []
    op := opOf w
    a := aOf w
    v := vOf w
    cmdw := none
    busy := false
    rvalid := true
    rcode := code
    rflag := flag }

/-- The radio after a frame has ended (R151): outside a frame, with the count of data bytes and the payload bytes the frame
left in its decoder. -/
def Radio.closed (r : Radio) (fidx : Nat) (facc : List Byte) : Radio :=
  { r with inFrame := false, fcmd := .none, fidx := fidx, facc := facc }

/-- A write data phase as the bus shows it: each byte out, a free byte in, the first with draw number `n` (R107, R148, R149). -/
def sent (n : Nat) (bs : List Byte) : List (Byte × Byte) := bs.zipIdx.map (fun x => (x.1, Config.freeByte (n + x.2)))

/-- A read data phase as the bus shows it: READ_FILL out, the bytes in (R107, R133). -/
def received (bs : List Byte) : List (Byte × Byte) := bs.map (fun b => (0xFF#8, b))

/-! ### Traces (R13): lists of bus events, the newest first -/

/-- `SETTLE_TICKS` ticks. -/
def settleTrace (p : Params) : List BusEvent := List.replicate p.settleTicks .tick

/-- The trace of one frame whose exchanges are `xs`, MOSI and MISO, the command byte's first (R130). -/
def frameTrace (p : Params) (xs : List (Byte × Byte)) : List BusEvent :=
  settleTrace p ++ .cs true :: ((xs.map (fun x => .xfer x.1 x.2)).reverse ++ settleTrace p ++ [.cs false])

/-- The trace of one drive of CE with its settling (R211). -/
def ceTrace (p : Params) (l : Bool) : List BusEvent := settleTrace p ++ [.ce l]

/-- `s` after one whole frame (R130) with the command byte `c`, the data exchanges `xs` and the radio `r` at its end: CS_N is
released, LSTAT has the STATUS snapshot, the radio has reacted once to each event. -/
def State.afterFrame (s : State) (c : Byte) (xs : List (Byte × Byte)) (r : Radio) : State :=
  { s with
    csN := true
    lstat := statusValue s.cfg s.radio
    radio := r
    trace := frameTrace s.cfg ((c, statusValue s.cfg s.radio) :: xs) ++ s.trace
    draws := s.draws + 3 + xs.length }

/-- `s` after the data exchanges `xs` of a frame whose command byte `c` was the next thing to exchange, and the frame's end: the
engine goes on with `k` (R130, R132, R151). -/
def State.frameFinished (s : State) (c : Byte) (xs : List (Byte × Byte)) (r : Radio) (k : List MicroOp) : State :=
  { s with
    seq := k
    csN := true
    lstat := statusValue s.cfg s.radio
    radio := r
    trace :=
      settleTrace s.cfg ++ .cs true
        :: (((c, statusValue s.cfg s.radio) :: xs).map (fun x => BusEvent.xfer x.1 x.2)).reverse ++ s.trace
    draws := s.draws + 2 + xs.length }

/-- `s` after CE has been driven to `l` and has settled (R211, R240). -/
def State.afterCE (s : State) (l : Bool) : State :=
  { s with ce := l, radio := s.radio.onCE l, trace := ceTrace s.cfg l ++ s.trace, draws := s.draws + 1 }

/-- `s` after one poll: a STATUS read frame whose data byte goes to `tmp`, one more poll counted (R234, R239). -/
def State.polled (s : State) : State :=
  { s.afterFrame 0x07#8 (received [statusValue s.cfg s.radio]) (s.radio.closed 1 []) with
    tmp := statusValue s.cfg s.radio
    pollCnt := s.pollCnt + 1 }

/-- The real duration R330 gives roughly for a trace: `ticks + T x xfers`. -/
def duration (p : Params) (t : List BusEvent) : Nat :=
  t.countP (· == .tick)
    + p.xferTicks * t.countP (fun e => match e with | .xfer _ _ => true | .cs _ => false | .ce _ => false | .tick => false)

/-! ### The framing rule (R131) and the settling rule (R212) on traces -/

/-- The level of CS_N after a trace that keeps the framing rule, nothing for one that breaks it: a frame opens with `EvCS(0)` and
closes with `EvCS(1)`, every exchange lies inside one, no `EvCE` does (R131). -/
def csAfter : List BusEvent → Option Bool
  | [] => some true
  | .cs false :: t  => if csAfter t = some true then some false else none
  | .cs true :: t   => if csAfter t = some false then some true else none
  | .ce _ :: t      => if csAfter t = some true then some true else none
  | .xfer _ _ :: t  => if csAfter t = some false then some false else none
  | .tick :: t      => csAfter t

/-- The ticks still owed after a trace that keeps the settling rule, nothing for one that breaks it: after a line event no other
bus event comes before `SETTLE_TICKS` ticks (R211, R212). -/
def ticksOwed (p : Params) : List BusEvent → Option Nat
  | [] => some 0
  | .cs _ :: t     => if ticksOwed p t = some 0 then some p.settleTicks else none
  | .ce _ :: t     => if ticksOwed p t = some 0 then some p.settleTicks else none
  | .xfer _ _ :: t => if ticksOwed p t = some 0 then some 0 else none
  | .tick :: t     => (ticksOwed p t).map (· - 1)

/-! ### The invariant -/

/-- The end step alone: what stands after the poll loop (R230). -/
def endsHere : List MicroOp → Bool
  | [.finish _] => true
  | _           => false

/-- A procedure that may stand at `seq` when CS_N is at the level `csN`: outside a frame it drives CE, opens a frame, tests a poll
or ends; inside one it exchanges bytes until it closes it (R130, R131). -/
def framed (csN : Bool) : List MicroOp → Bool
  | [] => false
  | .driveCS l :: k => csN == !l && framed l k
  | .driveCE _ :: k => csN && framed csN k
  | .cmd _ :: k     => !csN && framed csN k
  | .out _ :: k     => !csN && framed csN k
  | .read _ :: k    => !csN && framed csN k
  | .pollLoop :: k  => csN && endsHere k
  | .pollTest :: k  => csN && endsHere k
  | .finish _ :: _  => csN

/-- How many polls a procedure still holds as reads of its own. -/
def pollReads : List MicroOp → Nat
  | [] => 0
  | .read .poll :: k => pollReads k + 1
  | _ :: k           => pollReads k

/-- The invariant of the machine. -/
structure State.Inv (s : State) : Prop where
  /-- CS_N is released whenever no command runs (R29). -/
  released : s.phase ≠ .run → s.csN = true
  /-- BUSY is 1 exactly outside IDLE (R34). -/
  busy : s.busy = (s.phase != .idle)
  /-- RVALID is 0 in a command and from reset on (R34). -/
  rvalid : s.rvalid = true → s.phase = .idle
  /-- `settle_cnt` is within its range (R20), and 0 when IDLE (R24). -/
  settle : s.settleCnt ≤ s.cfg.settleTicks ∧ (s.phase = .idle → s.settleCnt = 0)
  /-- `seq` is empty when no command runs (R22, R53), and a well framed procedure when one does (R131). -/
  procedure : if s.phase = .run then framed s.csN s.seq = true else s.seq = []
  /-- `poll_cnt` never exceeds POLL_MAX, polls to come included (R25). -/
  polls : s.pollCnt + pollReads s.seq ≤ s.cfg.pollMax
  /-- The payload latches have PAYLOAD_MAX bytes (R39, R87). -/
  latches : s.txb.length = s.cfg.payloadMax ∧ s.rxb.length = s.cfg.payloadMax
  /-- A known radio sees the block's lines: it is in a frame exactly when CS_N is low, and its CE is the block's (R47, R49, R54). -/
  lines : s.radio.radioUnknown = false → s.radio.inFrame = !s.csN ∧ s.radio.ceSeen = s.ce

/-- No reset is scheduled. -/
def State.noReset (s : State) : Prop := EnvStep.reset ∉ s.env

end Sys2Proof.Machine
end

