-- ==== Sys2Proof/Certificates/Slice0/Obligations.lean ====
section
/-! DEFINITION. The statements about this model, from the numbered rules of spec/. Traces are lists of bus events, the newest
first. The model's own fields (log entries 3, 5, 8) are no rule of the spec: a free byte `Config.freeByte n` may be any byte,
`s.draws + k` is the number of the draw, one per bus event; `env` is the schedule of the other agents; `State.Ready` and
`State.AtCommand` say that it is empty ("no RF step"). A `step` at an instruction runs it whole (log entry 12). -/

open Sys2Proof Sys2Proof.Machine

/-! ### Encoding (30_encoding) -/

/-- R100-R104, R110-R113: decoding the encoding of an instruction gives it back, every operand at every value. -/
def Obligations.DecodeOfEncodeIsTheInstruction : Prop :=
  ∀ i : Instr, decodeTableWord (encode i).nbits (encode i).bits = some i

/-- R113, R116: a word or a byte that decodes is the encoding of what it decodes to, so no two words mean one command. -/
def Obligations.EveryWordHasOneMeaning : Prop :=
  (∀ (w : Word) (i : Instr), decodeHost w = .ok i → encode i = .host w)
    ∧ (∀ (c : Byte) (i : Instr), decodeSpi c = .ok i → encode i = .spi c)

/-- R114, R115: a host word decodes to BAD exactly for a reserved op code, a non-zero reserved bit, or a non-zero field its
command does not use; and the three are told apart by name. -/
def Obligations.BadWordsAreTheReservedOnes : Prop :=
  (∀ w : Word, (∃ e, decodeHost w = .error e) ↔
      (0xC#4 ≤ opOf w ∨ w &&& 0xFF00E0F0#32 ≠ 0#32
        ∨ (opOf w ≠ 0x0#4 ∧ opOf w ≠ 0x1#4 ∧ aOf w ≠ 0#5)
        ∨ (opOf w ∈ [0x1#4, 0x2#4, 0x5#4, 0x7#4, 0x8#4, 0xA#4] ∧ vOf w ≠ 0#8)))
    ∧ (∀ w : Word, 0xC#4 ≤ opOf w → decodeHost w = .error (.reservedOp (opOf w)))
    ∧ (∀ w : Word, opOf w < 0xC#4 → w &&& 0xFF00E0F0#32 ≠ 0#32 → decodeHost w = .error .reservedBits)
    ∧ decodeHost 0x00000102#32 = .error .unusedField

/-- R105, R106: the command bytes the radio does not decode are 0x40..0x60, 0x62..0x9F and 0xA1..0xFF, and such a byte in a
frame sets the refusal mark. -/
def Obligations.UnlistedCommandBytes : Prop :=
  (∀ c : Byte, (∃ e, decodeSpi c = .error e) ↔
      ((0x40#8 ≤ c ∧ c ≤ 0x60#8) ∨ (0x62#8 ≤ c ∧ c ≤ 0x9F#8) ∨ 0xA1#8 ≤ c))
    ∧ (∀ (p : Params) (c : Byte) (e : DecodeError) (r : Radio), decodeSpi c = .error e → r.inFrame = true → r.fcmd = .none →
        (r.onXfer p c).radioUnknown = true)

/-- Words written out from the encodings of R101-R104 and R110-R112 decode to what they stand for. A sanity statement. -/
def Obligations.SampleWordsDecode : Prop :=
  decodeTableWord 8 0b00000111 = some (.rRegister 7#5)
    ∧ decodeTableWord 8 0b00110000 = some (.wRegister 16#5)
    ∧ decodeTableWord 8 0b10100000 = some .wTxPayload
    ∧ decodeTableWord 8 0b01100001 = some .rRxPayload
    ∧ decodeTableWord 32 0x004C0500 = some (.writeReg 5#5 0x4C#8)
    ∧ decodeTableWord 32 0x00001001 = some (.readReg 16#5)
    ∧ decodeTableWord 32 0x00000002 = some .beginRadio
    ∧ decodeTableWord 32 0x004C0003 = some (.setChannel 0x4C#8)
    ∧ decodeTableWord 32 0x00060006 = some (.openReadingPipe 6#8)
    ∧ decodeTableWord 32 0x00020009 = some (.writePayload 2#8)
    ∧ decodeTableWord 32 0x0002000B = some (.readPayload 2#8)
    ∧ decodeTableWord 32 0x0000000C = none
    ∧ decodeTableWord 32 0x00000102 = none

/-- R121-R123, R190: the command bytes the block builds lie in their ranges, and a pipe operand names its register or none. -/
def Obligations.AddressDecoderOutputs : Prop :=
  (∀ a : RegAddr, wcmd a = 0x20#8 ||| a.setWidth 8 ∧ 0x20#8 ≤ wcmd a ∧ wcmd a ≤ 0x3F#8)
    ∧ (∀ a : RegAddr, rcmd a = a.setWidth 8 ∧ rcmd a ≤ 0x1F#8)
    ∧ (∀ p : Byte, p ≤ 5#8 → ∃ a, pipeTarget p = some a ∧ a.toNat = 0x0A + p.toNat ∧ 0x0A#5 ≤ a ∧ a ≤ 0x0F#5)
    ∧ (∀ p : Byte, 5#8 < p → pipeTarget p = none)

/-- R118, R120: a command line of the text syntax becomes the one word of its command, which decodes to it; a line with an
operand out of its field's range becomes no word. -/
def Obligations.TextLinesBecomeTheirWords : Prop :=
  (∀ (n : Nat) (line : AsmLine) (i : Instr), line.command? = some i →
      if line.wellFormed n then
        AsmLine.assemble n line = some [.issue (commandWord i)] ∧ decodeHost (commandWord i) = .ok i
      else AsmLine.assemble n line = none)
    ∧ (∀ n a v : Nat, (31 < a ∨ 255 < v) → AsmLine.assemble n (.writeReg a v) = none)
    ∧ (∀ n a : Nat, 31 < a → AsmLine.assemble n (.readReg a) = none)
    ∧ (∀ n v : Nat, 255 < v →
        AsmLine.assemble n (.setChannel v) = none ∧ AsmLine.assemble n (.setPaLevel v) = none
          ∧ AsmLine.assemble n (.openReadingPipe v) = none ∧ AsmLine.assemble n (.write v) = none
          ∧ AsmLine.assemble n (.read v) = none)

/-- R119, R38, R39, R87: a latch directive on an IDLE machine with no command pending sets the latch bytes from index 0 up, and
nothing else. Its first move is the wait for the commands before it (log entry 17). -/
def Obligations.DirectivesFillTheLatches : Prop :=
  (∀ (s : State) (bs : Vector Byte 5), s.phase = .idle → s.cmdw = none → s.env = [] →
      ∃ steps, AsmLine.assemble s.cfg.payloadMax (.addr (bs.toList.map BitVec.toNat)) = some steps
        ∧ Host.Core.run core steps.length (s.withEnv (steps.map .host)) = .next { s with addrl := bs.map some })
    ∧ (∀ (s : State) (bs : List Byte), s.phase = .idle → s.cmdw = none → s.env = [] → bs.length ≤ s.cfg.payloadMax →
      s.txb.length = s.cfg.payloadMax →
      ∃ steps, AsmLine.assemble s.cfg.payloadMax (.txb (bs.map BitVec.toNat)) = some steps
        ∧ Host.Core.run core steps.length (s.withEnv (steps.map .host))
            = .next { s with txb := bs.map some ++ s.txb.drop bs.length })

/-- R119, R33, R86: a line of a program, a directive as much as a command, waits while a command runs, is pending, or the block
settles after reset: the schedule and the host latches stay, so a directive after a command cannot change what that command sends.
That the wait also covers the time between the issue of a word and its accept is the model's reading (log entry 17). -/
def Obligations.LinesWaitForTheCommandBefore : Prop :=
  ∀ (s t : State) (line : AsmLine) (steps : List HostStep) (e : List EnvStep),
    AsmLine.assemble s.cfg.payloadMax line = some steps → s.env = steps.map .host ++ e → (s.phase ≠ .idle ∨ s.cmdw ≠ none) →
    step s = .next t →
    t.env = s.env ∧ t.addrl = s.addrl ∧ t.txb = s.txb

/-! ### The step runs the decoded instruction -/

/-- R31, R113, R105, R130: when the engine is to move, IDLE with a word pending that decodes to `i`, or at a frame's command byte
that decodes to `i`, the step is the execution of `i`. That it runs `i` whole is the model's choice (log entry 12). -/
def Obligations.StepRunsTheDecodedInstruction : Prop :=
  (∀ (s : State) (w : Word) (i : Instr), s.phase = .idle → s.cmdw = some w → decodeHost w = .ok i →
      (s.env = [] → step s = exec i s) ∧ (∀ e, s.env = .engine :: e → step s = exec i (s.withEnv e)))
    ∧ (∀ (s : State) (c : Byte) (k : List MicroOp) (i : Instr), s.phase = .run → s.settleCnt = 0 → s.seq = .cmd c :: k →
      decodeSpi c = .ok i →
      (s.env = [] → step s = exec i s) ∧ (∀ e, s.env = .engine :: e → step s = exec i (s.withEnv e)))

/-- R281, R280: a word that decodes to BAD ends its command with ERR_CMD at once: OP, A, V are loaded, and RDATA, LSTAT, the
latches, the radio and the bus trace stay. -/
def Obligations.BadWordEndsWithErrCmd : Prop :=
  ∀ (s : State) (w : Word) (e : DecodeError), s.phase = .idle → s.settleCnt = 0 → s.env = [] → s.cmdw = some w →
    decodeHost w = .error e → step s = .next (s.finished w .errCmd false)

/-! ### Register access (40_register_access) -/

/-- R140, R148, R154, R73: WRITE_REG to a mapped register, its result and its frame: STATUS takes the write-1-to-clear, a 1-byte
register RADIO_STORE, a 5-byte register its position 0; every other register, latch, flag and CE stay. -/
def Obligations.WriteRegResult : Prop :=
  ∀ (s : State) (a : RegAddr) (v : Byte), s.Ready →
    (∀ i : Fin 7, a.toNat = i.val →
      exec (.writeReg a v) s
        = .next ((s.afterFrame (0x20#8 ||| a.setWidth 8) (sent (s.draws + 2) [v])
            (Radio.closed { s.radio with reg1 := s.radio.reg1.set i (radioStore s.cfg a v) } 1 [])).finished
              (commandWord (.writeReg a v)) .ok false))
    ∧ (a = 0x07#5 →
      exec (.writeReg a v) s
        = .next ((s.afterFrame 0x27#8 (sent (s.draws + 2) [v])
            (Radio.closed
              { s.radio with
                fTxDs := if v &&& txDsMask s.cfg ≠ 0#8 then false else s.radio.fTxDs
                fMaxRt := if v &&& maxRtMask s.cfg ≠ 0#8 then false else s.radio.fMaxRt
                fRxDr := if v &&& rxDrMask s.cfg ≠ 0#8 then false else s.radio.fRxDr } 1 [])).finished
              (commandWord (.writeReg a v)) .ok false))
    ∧ (∀ j : Fin 7, a.toNat = 0x0A + j.val →
      exec (.writeReg a v) s
        = .next ((s.afterFrame (0x20#8 ||| a.setWidth 8) (sent (s.draws + 2) [v])
            (Radio.closed { s.radio with reg5 := s.radio.reg5.set j (s.radio.reg5[j].set 0 v) } 1 [])).finished
              (commandWord (.writeReg a v)) .ok false))

/-- R76, R140, R51, R291: WRITE_REG to an unmapped address (0x08, 0x09, 0x11..0x1F) runs the same frame and completes; the radio
is then unknown, its mark set. -/
def Obligations.WriteRegUnmapped : Prop :=
  ∀ (s : State) (a : RegAddr) (v : Byte), s.Ready → (a = 0x08#5 ∨ a = 0x09#5 ∨ 0x11#5 ≤ a) →
    ∃ r : Radio, r.radioUnknown = true
      ∧ exec (.writeReg a v) s
        = .next ((s.afterFrame (0x20#8 ||| a.setWidth 8) (sent (s.draws + 2) [v]) r).finished
            (commandWord (.writeReg a v)) .ok false)

/-- R141, R147, R76: READ_REG returns the register in RDATA (STATUS as its three flags, a 5-byte register's position 0, a free
byte for an unmapped address), and changes no register, flag or latch. -/
def Obligations.ReadRegResult : Prop :=
  ∀ (s : State) (a : RegAddr) (b : Byte), s.Ready →
    ((∃ i : Fin 7, a.toNat = i.val ∧ b = s.radio.reg1[i]) ∨ (a = 0x07#5 ∧ b = statusValue s.cfg s.radio)
      ∨ (∃ j : Fin 7, a.toNat = 0x0A + j.val ∧ b = s.radio.reg5[j][0])
      ∨ ((a = 0x08#5 ∨ a = 0x09#5 ∨ 0x11#5 ≤ a) ∧ b = Config.freeByte (s.draws + 2))) →
    exec (.readReg a) s
      = .next
          { (s.afterFrame (a.setWidth 8) (received [b]) (s.radio.closed 1 [])).finished (commandWord (.readReg a)) .ok false with
            tmp := b
            rdata := b }

/-- R140, R141, R81: a READ_REG after a WRITE_REG returns what the radio stored: RADIO_STORE of the value in a 1-byte register,
the value itself at position 0 of a 5-byte register. -/
def Obligations.ReadAfterWriteReturnsTheStoredByte : Prop :=
  ∀ (s : State) (a : RegAddr) (v : Byte), s.Ready →
    (a.toNat < 7 → ∃ t u, exec (.writeReg a v) s = .next t ∧ exec (.readReg a) t = .next u ∧ u.rdata = radioStore s.cfg a v)
    ∧ (0x0A ≤ a.toNat → a.toNat ≤ 0x10 →
        ∃ t u, exec (.writeReg a v) s = .next t ∧ exec (.readReg a) t = .next u ∧ u.rdata = v)

/-- R73, R148: a W_REGISTER frame to a 5-byte register stores its k-th data byte at position k; positions past the bytes sent
keep their values, bytes past the fifth are ignored, and nothing else of the radio but its byte count changes. -/
def Obligations.WriteFrameStoresByPosition : Prop :=
  ∀ (p : Params) (r : Radio) (a : RegAddr) (j : Fin 7) (bs : List Byte), a.toNat = 0x0A + j.val → r.inFrame = true →
    r.fcmd = .wReg a → r.fidx = 0 →
    bs.foldl (fun q m => q.onXfer p m) r
      = { r with
          reg5 := r.reg5.set j (Vector.ofFn (fun k : Fin 5 => (bs[k.val]?).getD r.reg5[j][k]))
          fidx := bs.length }

/-- R147, R73, R76: what an R_REGISTER data byte at position k reads, `none` being a free byte. -/
def Obligations.ReadAnswersByPosition : Prop :=
  ∀ (p : Params) (r : Radio) (a : RegAddr) (k : Nat),
    (∀ i : Fin 7, a.toNat = i.val → r.readAt p a k = if k = 0 then some r.reg1[i] else none)
    ∧ (a = 0x07#5 → r.readAt p a k = if k = 0 then some (statusValue p r) else none)
    ∧ (∀ j : Fin 7, a.toNat = 0x0A + j.val → r.readAt p a k = if h : k < 5 then some r.reg5[j][k] else none)
    ∧ ((a = 0x08#5 ∨ a = 0x09#5 ∨ 0x11#5 ≤ a) → r.readAt p a k = none)

/-- R46: bit by bit, STATUS reads the three flags at their masks and 0 elsewhere. -/
def Obligations.StatusReadsTheFlags : Prop :=
  ∀ (p : Params) (r : Radio),
    (statusValue p r &&& txDsMask p = if r.fTxDs then txDsMask p else 0#8)
    ∧ (statusValue p r &&& maxRtMask p = if r.fMaxRt then maxRtMask p else 0#8)
    ∧ (statusValue p r &&& rxDrMask p = if r.fRxDr then rxDrMask p else 0#8)
    ∧ statusValue p r &&& 0x8F#8 = 0#8
    ∧ txDsMask p ||| maxRtMask p ||| rxDrMask p = 0x70#8

/-- R154, R46: no step of the engine sets a STATUS flag of a radio that stays known. -/
def Obligations.EngineNeverSetsAFlag : Prop :=
  ∀ s t : State, engineStep s = .next t → t.radio.radioUnknown = false →
    (t.radio.fTxDs = true → s.radio.fTxDs = true) ∧ (t.radio.fMaxRt = true → s.radio.fMaxRt = true)
      ∧ (t.radio.fRxDr = true → s.radio.fRxDr = true)

/-! ### The SPI commands (30_encoding R101-R104, 40_register_access part 3) -/

/-- R102, R148, R154, R76: W_REGISTER with any number of data bytes: the first goes to a 1-byte register (STATUS:
write-1-to-clear), the k-th to position k of a 5-byte register, later ones are ignored; a byte to an unmapped address leaves the
radio unknown; with no data byte no register changes. -/
def Obligations.WRegisterResult : Prop :=
  ∀ (s : State) (a : RegAddr) (srcs : List ByteSource) (bs : List Byte) (k : List MicroOp),
    s.AtCommand (0x20#8 ||| a.setWidth 8) (srcs.map .out ++ .driveCS true :: k) →
    srcs.map (fun src => sourceByte src s) = bs.map .ok →
    (∀ i : Fin 7, a.toNat = i.val →
      exec (.wRegister a) s
        = .next (s.frameFinished (0x20#8 ||| a.setWidth 8) (sent (s.draws + 1) bs)
            (Radio.closed
              { s.radio with
                reg1 := s.radio.reg1.set i ((bs.head?.map (radioStore s.cfg a)).getD s.radio.reg1[i]) } bs.length []) k))
    ∧ (a = 0x07#5 →
      exec (.wRegister a) s
        = .next (s.frameFinished 0x27#8 (sent (s.draws + 1) bs)
            (Radio.closed
              { s.radio with
                fTxDs := s.radio.fTxDs && (bs.headD 0#8 &&& txDsMask s.cfg == 0#8)
                fMaxRt := s.radio.fMaxRt && (bs.headD 0#8 &&& maxRtMask s.cfg == 0#8)
                fRxDr := s.radio.fRxDr && (bs.headD 0#8 &&& rxDrMask s.cfg == 0#8) } bs.length []) k))
    ∧ (∀ j : Fin 7, a.toNat = 0x0A + j.val →
      exec (.wRegister a) s
        = .next (s.frameFinished (0x20#8 ||| a.setWidth 8) (sent (s.draws + 1) bs)
            (Radio.closed
              { s.radio with
                reg5 := s.radio.reg5.set j (Vector.ofFn (fun q : Fin 5 => (bs[q.val]?).getD s.radio.reg5[j][q])) }
              bs.length []) k))
    ∧ ((a = 0x08#5 ∨ a = 0x09#5 ∨ 0x11#5 ≤ a) → bs ≠ [] →
      ∃ r : Radio, r.radioUnknown = true
        ∧ exec (.wRegister a) s = .next (s.frameFinished (0x20#8 ||| a.setWidth 8) (sent (s.draws + 1) bs) r k))
    ∧ (bs = [] → exec (.wRegister a) s = .next (s.frameFinished (0x20#8 ||| a.setWidth 8) [] (s.radio.closed 0 []) k))

/-- R101, R147: R_REGISTER with any number of data bytes: each is the register's byte at its position, or a free byte; no
register, queue or flag changes, and a byte read to `tmp` stands in `tmp`. -/
def Obligations.RRegisterResult : Prop :=
  ∀ (s : State) (a : RegAddr) (dsts : List ByteDest) (k : List MicroOp),
    s.AtCommand (a.setWidth 8) (dsts.map .read ++ .driveCS true :: k) →
    ∃ t, exec (.rRegister a) s = .next t
      ∧ { t with tmp := s.tmp, pollCnt := s.pollCnt, rxb := s.rxb }
        = s.frameFinished (a.setWidth 8)
            (received ((List.range dsts.length).map
              (fun q => (s.radio.readAt s.cfg a q).getD (Config.freeByte (s.draws + 1 + q)))))
            (s.radio.closed dsts.length []) k
      ∧ (dsts = [.tmp] → t.tmp = (s.radio.readAt s.cfg a 0).getD (Config.freeByte (s.draws + 1)))

/-- R103, R149, R151: W_TX_PAYLOAD appends the payload of its data bytes, in order, to `txq` at the frame's end. That the
radio counts those bytes in `fidx` is the model's reading of R47, R149 being silent (log entry 16). -/
def Obligations.WTxPayloadResult : Prop :=
  ∀ (s : State) (srcs : List ByteSource) (bs : List Byte) (k : List MicroOp),
    s.AtCommand 0xA0#8 (srcs.map .out ++ .driveCS true :: k) →
    srcs.map (fun src => sourceByte src s) = bs.map .ok →
    exec .wTxPayload s
      = .next (s.frameFinished 0xA0#8 (sent (s.draws + 1) bs)
          { s.radio.closed bs.length bs with txq := s.radio.txq ++ [bs] } k)

/-- R104, R150, R151: R_RX_PAYLOAD of n bytes into RXB: the head payload's bytes in order, free bytes past its end or with none
pending; the head payload is dropped at the frame's end where a byte was read. -/
def Obligations.RRxPayloadResult : Prop :=
  ∀ (s : State) (n : Nat) (bs : List Byte) (k : List MicroOp),
    s.AtCommand 0x61#8 ((List.range n).map (fun i => .read (.rxb i)) ++ .driveCS true :: k) → n ≤ s.rxb.length →
    bs = (List.range n).map (fun q => ((s.radio.rxq.headD [])[q]?).getD (Config.freeByte (s.draws + 1 + q))) →
    exec .rRxPayload s
      = .next
          { s.frameFinished 0x61#8 (received bs)
              { s.radio.closed n [] with rxq := if 1 ≤ n then s.radio.rxq.tail else s.radio.rxq } k with
            rxb := bs.map some ++ s.rxb.drop n }

/-! ### Configuration (41_configuration) -/

/-- R170, R171: BEGIN lowers CE, then writes the eight values of its table to registers 0x00..0x07 in order, the last one
clearing all three flags. The pipe addresses, the queues and the latches stay. -/
def Obligations.BeginResult : Prop :=
  ∀ s : State, s.Ready →
    exec .beginRadio s
      = .next
          (State.finished
            { s with
              ce := false
              csN := true
              lstat := statusValue s.cfg s.radio
              radio :=
                Radio.closed
                  { s.radio.onCE false with
                    reg1 :=
                      #v[radioStore s.cfg 0x00#5 0x0F#8, radioStore s.cfg 0x01#5 0x3F#8, radioStore s.cfg 0x02#5 0x03#8,
                        radioStore s.cfg 0x03#5 0x03#8, radioStore s.cfg 0x04#5 0x04#8, radioStore s.cfg 0x05#5 0x02#8,
                        radioStore s.cfg 0x06#5 0x07#8]
                    fTxDs := false
                    fMaxRt := false
                    fRxDr := false } 1 []
              trace :=
                (([(0x20#8, 0x0F#8), (0x21#8, 0x3F#8), (0x22#8, 0x03#8), (0x23#8, 0x03#8), (0x24#8, 0x04#8), (0x25#8, 0x02#8),
                  (0x26#8, 0x07#8), (0x27#8, 0x70#8)] : List (Byte × Byte)).zipIdx.reverse.flatMap
                    (fun x => frameTrace s.cfg
                      ((x.1.1, statusValue s.cfg s.radio) :: sent (s.draws + 3 + 4 * x.2) [x.1.2])))
                  ++ ceTrace s.cfg false ++ s.trace
              draws := s.draws + 33 }
            (commandWord .beginRadio) .ok false)

/-- R171, R316: READ_REG of 0x00..0x07 after BEGIN, with no RF step and the identity RADIO_STORE, gives 0x0F, 0x3F, 0x03, 0x03,
0x04, 0x02, 0x07, 0x00. BEGIN may be issued again: registers 0x00..0x07 come to the same values, the pipe address registers and both
queues stay. -/
def Obligations.BeginReadsBackAndMayBeRepeated : Prop :=
  (∀ (s : State) (k : Fin 8), s.Ready → s.cfg.storeRows = [] →
      ∃ t u, exec .beginRadio s = .next t ∧ exec (.readReg (BitVec.ofNat 5 k.val)) t = .next u
        ∧ u.rdata = (#v[0x0F#8, 0x3F#8, 0x03#8, 0x03#8, 0x04#8, 0x02#8, 0x07#8, 0x00#8] : Vector Byte 8)[k])
    ∧ (∀ s : State, s.Ready →
      ∃ t u, exec .beginRadio s = .next t ∧ exec .beginRadio t = .next u ∧ u.radio.reg1 = t.radio.reg1
        ∧ statusValue u.cfg u.radio = statusValue t.cfg t.radio ∧ u.radio.reg5 = s.radio.reg5 ∧ u.radio.txq = s.radio.txq
        ∧ u.radio.rxq = s.radio.rxq ∧ u.ce = false)

/-- R173: SET_CHANNEL sends any channel byte as it is, with no range check; RF_CH then holds RADIO_STORE of it. -/
def Obligations.SetChannelResult : Prop :=
  ∀ (s : State) (channel : Byte), s.Ready →
    exec (.setChannel channel) s
      = .next ((s.afterFrame 0x25#8 (sent (s.draws + 2) [channel])
          (Radio.closed { s.radio with reg1 := s.radio.reg1.set 5 (radioStore s.cfg 0x05#5 channel) } 1 [])).finished
            (commandWord (.setChannel channel)) .ok false)

/-- R174: SET_PA_LEVEL reads RF_SETUP and writes `(r & 0xF8) | (V & 0x07)`: bits 7:3 of the byte written are those read, bits 2:0
those of the level. RDATA is not written, `tmp` holds the byte read. -/
def Obligations.SetPaLevelResult : Prop :=
  ∀ (s : State) (level r w : Byte), s.Ready → r = s.radio.reg1[6] → w = (r &&& 0xF8#8 ||| (level &&& 0x07#8)) →
    exec (.setPaLevel level) s
      = .next
          { ((s.afterFrame 0x06#8 (received [r]) (s.radio.closed 1 [])).afterFrame 0x26#8 (sent (s.draws + 6) [w])
              (Radio.closed { s.radio with reg1 := s.radio.reg1.set 6 (radioStore s.cfg 0x06#5 w) } 1 [])).finished
                (commandWord (.setPaLevel level)) .ok false with
            tmp := r }
    ∧ w.extractLsb' 3 5 = r.extractLsb' 3 5 ∧ w.extractLsb' 0 3 = level.extractLsb' 0 3

/-! ### Pipes (42_pipes) -/

/-- R191: OPEN_WRITING_PIPE writes the five bytes of ADDRL, in index order, to TX_ADDR and to no other register. -/
def Obligations.OpenWritingPipeResult : Prop :=
  ∀ (s : State) (b0 b1 b2 b3 b4 : Byte), s.Ready → s.addrl = #v[some b0, some b1, some b2, some b3, some b4] →
    exec .openWritingPipe s
      = .next ((s.afterFrame 0x30#8 (sent (s.draws + 2) [b0, b1, b2, b3, b4])
          (Radio.closed { s.radio with reg5 := s.radio.reg5.set 6 #v[b0, b1, b2, b3, b4] } 5 [])).finished
            (commandWord .openWritingPipe) .ok false)

/-- R192: OPEN_READING_PIPE of a valid pipe p writes the five bytes of ADDRL, in index order, to register 0x0A + p alone. -/
def Obligations.OpenReadingPipeResult : Prop :=
  ∀ (s : State) (p : Fin 6) (b0 b1 b2 b3 b4 : Byte), s.Ready → s.addrl = #v[some b0, some b1, some b2, some b3, some b4] →
    exec (.openReadingPipe (BitVec.ofNat 8 p.val)) s
      = .next ((s.afterFrame (BitVec.ofNat 8 (0x2A + p.val)) (sent (s.draws + 2) [b0, b1, b2, b3, b4])
          (Radio.closed
            { s.radio with reg5 := s.radio.reg5.set p.val #v[b0, b1, b2, b3, b4] (by omega) } 5 [])).finished
            (commandWord (.openReadingPipe (BitVec.ofNat 8 p.val))) .ok false)

/-! ### Mode control (43_mode_control) -/

/-- R213: START_LISTENING reads CONFIG, writes it with bit 0 set, then raises CE. -/
def Obligations.StartListeningResult : Prop :=
  ∀ (s : State) (c : Byte), s.Ready → c = s.radio.reg1[0] →
    exec .startListening s
      = .next
          { (((s.afterFrame 0x00#8 (received [c]) (s.radio.closed 1 [])).afterFrame 0x20#8 (sent (s.draws + 6) [c ||| 0x01#8])
              (Radio.closed { s.radio with reg1 := s.radio.reg1.set 0 (radioStore s.cfg 0x00#5 (c ||| 0x01#8)) } 1 [])).afterCE
                true).finished (commandWord .startListening) .ok false with
            tmp := c }

/-- R214, R215: STOP_LISTENING lowers CE first, then reads CONFIG and writes it with bit 0 cleared. -/
def Obligations.StopListeningResult : Prop :=
  ∀ (s : State) (c : Byte), s.Ready → c = s.radio.reg1[0] →
    exec .stopListening s
      = .next
          { (((s.afterCE false).afterFrame 0x00#8 (received [c]) ((s.radio.onCE false).closed 1 [])).afterFrame 0x20#8
              (sent (s.draws + 7) [c &&& 0xFE#8])
              (Radio.closed
                { s.radio.onCE false with
                  reg1 := s.radio.reg1.set 0 (radioStore s.cfg 0x00#5 (c &&& 0xFE#8)) } 1 [])).finished
                (commandWord .stopListening) .ok false with
            tmp := c }

/-- R217, R49: START_LISTENING leaves the radio Listening, and STOP_LISTENING after it leaves PRIM_RX cleared and CE low,
whatever they were before, under a RADIO_STORE that keeps bit 0 of CONFIG. -/
def Obligations.StartThenStopListening : Prop :=
  ∀ s : State, s.Ready → (∀ v : Byte, (radioStore s.cfg 0x00#5 v).getLsbD 0 = v.getLsbD 0) →
    ∃ t u, exec .startListening s = .next t ∧ exec .stopListening t = .next u
      ∧ t.radio.listening = true ∧ t.ce = true
      ∧ u.radio.reg1[0].getLsbD 0 = false ∧ u.ce = false ∧ u.radio.listening = false

/-- R240, R49: the radio's observation of CE: a rising edge is noted, and a fall counts a trigger when CE rose before, PRIM_RX
is 0 and a payload waits. -/
def Obligations.ChipEnableObservation : Prop :=
  ∀ r : Radio,
    r.onCE true = { r with ceWasHigh := if r.ceSeen = false then true else r.ceWasHigh, ceSeen := true }
    ∧ r.onCE false
      = { r with
          txPending :=
            if r.ceSeen = true ∧ r.ceWasHigh = true ∧ r.reg1[0].getLsbD 0 = false ∧ r.txq ≠ [] then r.txPending + 1
            else r.txPending
          ceSeen := false
          ceWasHigh := false }
    ∧ (r.ceSeen = false → r.reg1[0].getLsbD 0 = false → r.txq ≠ [] →
        ((r.onCE true).onCE false).txPending = r.txPending + 1)

/-! ### Transmit (44_transmit) -/

/-- R230, R232, R233, R235, R236: WRITE_PAYLOAD with TX_DS set at its polls: payload frame, trigger pulse, one poll, the clear of
TX_DS alone, success. MAX_RT and RX_DR stay, whatever they are. The count `fidx` of the payload frame is as log entry 16 reads it. -/
def Obligations.WritePayloadSuccess : Prop :=
  ∀ (s s2 : State) (len : Byte) (bs : List Byte), s.Ready → len.toNat ≤ s.cfg.payloadMax → 1 ≤ s.cfg.pollMax →
    bs.length = len.toNat → s.txb.take len.toNat = bs.map some → s.radio.fTxDs = true →
    s2 = (((State.afterFrame { s with pollCnt := 0 } 0xA0#8 (sent (s.draws + 2) bs)
            { s.radio.closed bs.length bs with txq := s.radio.txq ++ [bs] }).afterCE true).afterCE false).polled →
    exec (.writePayload len) s
      = .next ((s2.afterFrame 0x27#8 (sent (s2.draws + 2) [txDsMask s.cfg])
          (Radio.closed { s2.radio with fTxDs := false } 1 [])).finished (commandWord (.writePayload len)) .ok true)

/-- R230, R235, R236: WRITE_PAYLOAD with MAX_RT set and TX_DS clear at its polls: payload frame, trigger pulse, one poll, the clear
of MAX_RT alone, RFLAG 0 and RCODE OK. RX_DR stays. The count `fidx` of the payload frame is as log entry 16 reads it. -/
def Obligations.WritePayloadFailure : Prop :=
  ∀ (s s2 : State) (len : Byte) (bs : List Byte), s.Ready → len.toNat ≤ s.cfg.payloadMax → 1 ≤ s.cfg.pollMax →
    bs.length = len.toNat → s.txb.take len.toNat = bs.map some → s.radio.fTxDs = false → s.radio.fMaxRt = true →
    s2 = (((State.afterFrame { s with pollCnt := 0 } 0xA0#8 (sent (s.draws + 2) bs)
            { s.radio.closed bs.length bs with txq := s.radio.txq ++ [bs] }).afterCE true).afterCE false).polled →
    exec (.writePayload len) s
      = .next ((s2.afterFrame 0x27#8 (sent (s2.draws + 2) [maxRtMask s.cfg])
          (Radio.closed { s2.radio with fMaxRt := false } 1 [])).finished (commandWord (.writePayload len)) .ok false)

/-- R230, R234, R237: WRITE_PAYLOAD with neither flag at its polls: POLL_MAX polls and no clear, RFLAG 0 and RCODE OK. RX_DR does
not end the loop. The count `fidx` of the payload frame is as log entry 16 reads it. -/
def Obligations.WritePayloadTimeout : Prop :=
  ∀ (s : State) (len : Byte) (bs : List Byte), s.Ready → len.toNat ≤ s.cfg.payloadMax →
    bs.length = len.toNat → s.txb.take len.toNat = bs.map some → s.radio.fTxDs = false → s.radio.fMaxRt = false →
    exec (.writePayload len) s
      = .next ((State.polled^[s.cfg.pollMax]
          (((State.afterFrame { s with pollCnt := 0 } 0xA0#8 (sent (s.draws + 2) bs)
            { s.radio.closed bs.length bs with txq := s.radio.txq ++ [bs] }).afterCE true).afterCE false)).finished
              (commandWord (.writePayload len)) .ok false)

/-- R235, R236, R237, R239: how a poll resolves, whatever the environment has done: TX_DS first, then MAX_RT, each with the write
of its own mask to STATUS; with neither, one more poll while fewer than POLL_MAX were made, else what stands after the loop. -/
def Obligations.PollResolution : Prop :=
  ∀ (s : State) (after : List MicroOp), s.phase = .run → s.settleCnt = 0 → s.seq = .pollTest :: after →
    (s.tmp &&& txDsMask s.cfg ≠ 0#8 →
      engineStep s
        = engineStep (s.withSeq [.driveCS false, .cmd 0x27#8, .out (.const (txDsMask s.cfg)), .driveCS true,
            .finish (.flag true)]))
    ∧ (s.tmp &&& txDsMask s.cfg = 0#8 → s.tmp &&& maxRtMask s.cfg ≠ 0#8 →
      engineStep s
        = engineStep (s.withSeq [.driveCS false, .cmd 0x27#8, .out (.const (maxRtMask s.cfg)), .driveCS true,
            .finish (.flag false)]))
    ∧ (s.tmp &&& txDsMask s.cfg = 0#8 → s.tmp &&& maxRtMask s.cfg = 0#8 → s.pollCnt < s.cfg.pollMax →
      engineStep s
        = engineStep (s.withSeq
            (.driveCS false :: .cmd 0x07#8 :: .read .poll :: .driveCS true :: .pollTest :: after)))
    ∧ (s.tmp &&& txDsMask s.cfg = 0#8 → s.tmp &&& maxRtMask s.cfg = 0#8 → s.cfg.pollMax ≤ s.pollCnt →
      ∀ (e : Ending) (k : List MicroOp), after = .finish e :: k → engineStep s = .next (endStep e s))

/-- R192, R231, R261, R282, R283: OPEN_READING_PIPE of a pipe above 5 ends with ERR_PIPE, WRITE_PAYLOAD and READ_PAYLOAD with a length
above PAYLOAD_MAX end with ERR_LEN: no bus event, no latch read. The accept step of WRITE_PAYLOAD has set `poll_cnt` to 0 (R25). -/
def Obligations.InvalidOperandsEndInTheirCode : Prop :=
  ∀ (s : State) (v : Byte), s.phase = .idle → s.settleCnt = 0 → s.env = [] →
    (5#8 < v → exec (.openReadingPipe v) s = .next (s.finished (commandWord (.openReadingPipe v)) .errPipe false))
      ∧ (s.cfg.payloadMax < v.toNat →
        exec (.writePayload v) s
            = .next (State.finished { s with pollCnt := 0 } (commandWord (.writePayload v)) .errLen false)
          ∧ exec (.readPayload v) s = .next (s.finished (commandWord (.readPayload v)) .errLen false))

/-- R39, R130, R290 (a): a pipe command faults at the first ADDRL byte that was never written, WRITE_PAYLOAD at the first such TXB
byte below its length, under the byte's index. -/
def Obligations.UnwrittenLatchByteFaults : Prop :=
  (∀ (s : State) (i : Fin 5), s.Ready → s.addrl[i] = none → (∀ k : Fin 5, k < i → s.addrl[k] ≠ none) →
      exec .openWritingPipe s = .fault (.unwrittenLatch .addrl i.val)
        ∧ (∀ p : Byte, p ≤ 5#8 → exec (.openReadingPipe p) s = .fault (.unwrittenLatch .addrl i.val)))
    ∧ (∀ (s : State) (len : Byte) (bs : List Byte) (l : List (Option Byte)), s.Ready → len.toNat ≤ s.cfg.payloadMax →
      bs.length < len.toNat → s.txb = bs.map some ++ none :: l →
      exec (.writePayload len) s = .fault (.unwrittenLatch .txb bs.length))

/-! ### Receive (45_receive) -/

/-- R260: AVAILABLE reads STATUS once and reports RX_DR alone in RFLAG; STATUS and RDATA stay. -/
def Obligations.AvailableResult : Prop :=
  ∀ s : State, s.Ready →
    exec .available s
      = .next
          { (s.afterFrame 0x07#8 (received [statusValue s.cfg s.radio]) (s.radio.closed 1 [])).finished
              (commandWord .available) .ok s.radio.fRxDr with
            tmp := statusValue s.cfg s.radio }

/-- R261, R262, R263, R150, R39: READ_PAYLOAD drains len bytes of the head payload into RXB[0..len-1], free bytes past its end or
with none pending, leaves RXB[len..], drops the head payload where a byte was read, and clears RX_DR alone, always. -/
def Obligations.ReadPayloadResult : Prop :=
  ∀ (s s1 : State) (len : Byte) (bs : List Byte), s.Ready → len.toNat ≤ s.cfg.payloadMax → s.rxb.length = s.cfg.payloadMax →
    bs = (List.range len.toNat).map (fun q => ((s.radio.rxq.headD [])[q]?).getD (Config.freeByte (s.draws + 2 + q))) →
    s1 =
      { s.afterFrame 0x61#8 (received bs)
          { s.radio.closed len.toNat [] with rxq := if 1 ≤ len.toNat then s.radio.rxq.tail else s.radio.rxq } with
        rxb := bs.map some ++ s.rxb.drop len.toNat } →
    exec (.readPayload len) s
      = .next ((s1.afterFrame 0x27#8 (sent (s1.draws + 2) [rxDrMask s.cfg])
          (Radio.closed { s1.radio with fRxDr := false } 1 [])).finished (commandWord (.readPayload len)) .ok false)

/-! ### The RF agent (60_exceptions part 4) -/

/-- R292: the effect of each RF step on a known radio with RF_CAUSAL = false, and nothing else: a flag is set and never cleared,
`txq` loses its head, `rxq` gains a payload. -/
def Obligations.RfStepEffects : Prop :=
  ∀ (s : State) (x : RfStep) (e : List EnvStep), s.env = .rf x :: e → s.cfg.rfCausal = false → s.radio.radioUnknown = false →
    step s
      = .next
          { s with
            env := e
            draws := s.draws + 1
            radio :=
              match x with
              | .txDone => { s.radio with fTxDs := true, txq := s.radio.txq.tail }
              | .txFail => { s.radio with fMaxRt := true }
              | .rx b   => { s.radio with rxq := s.radio.rxq ++ [b], fRxDr := true }
              | .txDrop => { s.radio with txq := s.radio.txq.tail } }

/-- R293: with RF_CAUSAL = true a transmit outcome happens only with a trigger pending and resolves it, a reception only while
the radio is Listening, and `rf_tx_drop` not at all. That a step that is not enabled leaves the state as it is (but for the
schedule and the draw counter) is the model's choice (log entry 3). -/
def Obligations.RfStepsUnderRfCausal : Prop :=
  ∀ (s : State) (x : RfStep) (e : List EnvStep), s.env = .rf x :: e → s.cfg.rfCausal = true → s.radio.radioUnknown = false →
    step s
      = .next
          { s with
            env := e
            draws := s.draws + 1
            radio :=
              match x with
              | .txDone =>
                if 0 < s.radio.txPending then
                  { s.radio with fTxDs := true, txq := s.radio.txq.tail, txPending := s.radio.txPending - 1 }
                else s.radio
              | .txFail =>
                if 0 < s.radio.txPending then { s.radio with fMaxRt := true, txPending := s.radio.txPending - 1 } else s.radio
              | .rx b =>
                if s.radio.ceSeen = true ∧ s.radio.reg1[0].getLsbD 0 = true then
                  { s.radio with rxq := s.radio.rxq ++ [b], fRxDr := true }
                else s.radio
              | .txDrop => s.radio }

/-! ### The host interface (10_state part 2, 60_exceptions R290, R299) -/

/-- R33: an issue waits while the engine is not IDLE, the schedule and CMDW staying as they are; when IDLE with nothing pending
it puts its word on CMDW. That a waiting write stands at the head of the schedule while the engine moves, and stands on CMDW until the
accept, is the model's reading (log entries 3, 7). -/
def Obligations.IssueWaitsUntilIdle : Prop :=
  ∀ (s : State) (w : Word) (e : List EnvStep), s.env = .host (.issue w) :: e →
    (s.phase ≠ .idle → ∀ t, step s = .next t → t.env = s.env ∧ t.cmdw = s.cmdw)
    ∧ (s.phase = .idle → s.cmdw = none → step s = .next { s with env := e, cmdw := some w })

/-- R34, R37, R290: what a host read returns or where it stops: RCODE, RFLAG and RDATA only while RVALID = 1; an RXB byte only
once written; BUSY and LSTAT always. -/
def Obligations.HostReadsAndTheirStops : Prop :=
  ∀ (s : State) (x : HostReg) (e : List EnvStep), s.env = .host (.read x) :: e →
    (s.rvalid = false → (x = .rcode ∨ x = .rflag ∨ x = .rdata) → step s = .refused .resultNotValid)
    ∧ (s.rvalid = true → x = .rdata → step s = .next { s with env := e, hostData := s.rdata })
    ∧ (s.rvalid = true → x = .rflag → step s = .next { s with env := e, hostData := if s.rflag then 1#8 else 0#8 })
    ∧ (s.rvalid = true → x = .rcode →
        step s
          = .next
              { s with
                env := e
                hostData := match s.rcode with | .ok => 0#8 | .errCmd => 1#8 | .errPipe => 2#8 | .errLen => 3#8 })
    ∧ (x = .lstat → step s = .next { s with env := e, hostData := s.lstat })
    ∧ (x = .busy → step s = .next { s with env := e, hostData := if s.busy then 1#8 else 0#8 })
    ∧ (∀ i b, s.phase = .idle → x = .latch .rxb i → s.rxb[i]? = some (some b) →
        step s = .next { s with env := e, hostData := b })
    ∧ (∀ i, s.phase = .idle → x = .latch .rxb i → s.rxb[i]? = some none → step s = .fault (.unwrittenRxb i))

/-! ### Reset (10_state R53, 70_reset part 1) -/

/-- R53: the values after reset, for all parameters and any radio; after SETTLE_TICKS steps the engine is IDLE with BUSY 0, the
rest unchanged. That it is IDLE after exactly that many steps, the last tick itself setting IDLE, is the model's reading (log
entry 15). -/
def Obligations.ResetValues : Prop :=
  ∀ (p : Params) (r : Radio) (s : State), s = State.resetWith p r → 1 ≤ p.settleTicks →
    s.phase = .resetSettle ∧ s.seq = [] ∧ s.op = 0#4 ∧ s.a = 0#5 ∧ s.v = 0#8 ∧ s.settleCnt = p.settleTicks ∧ s.pollCnt = 0
      ∧ s.tmp = 0x00#8 ∧ s.csN = true ∧ s.ce = false ∧ s.busy = true ∧ s.rvalid = false ∧ s.rcode = .ok ∧ s.rflag = false
      ∧ s.rdata = 0x00#8 ∧ s.lstat = 0x00#8 ∧ (∀ i : Fin 5, s.addrl[i] = none)
      ∧ s.txb = List.replicate p.payloadMax none ∧ s.rxb = List.replicate p.payloadMax none ∧ s.radio = r
      ∧ Host.Core.run core p.settleTicks s
        = .next { s with phase := .idle, busy := false, settleCnt := 0, trace := settleTrace p }

/-- R310, R311, R313: a reset step from any state: the engine and the host registers take their values, the latches and the
parameters keep theirs, and a line that has to move emits its event, CS_N before CE, the radio reacting to each. -/
def Obligations.ResetStepFromAnyState : Prop :=
  ∀ (s : State) (e : List EnvStep), s.env = .reset :: e →
    ∃ t, step s = .next t
      ∧ t.phase = .resetSettle ∧ t.settleCnt = s.cfg.settleTicks ∧ t.seq = [] ∧ t.busy = true ∧ t.rvalid = false
      ∧ t.rcode = .ok ∧ t.rflag = false ∧ t.rdata = 0x00#8 ∧ t.lstat = 0x00#8 ∧ t.op = 0#4 ∧ t.a = 0#5 ∧ t.v = 0#8
      ∧ t.pollCnt = 0 ∧ t.tmp = 0x00#8 ∧ t.csN = true ∧ t.ce = false
      ∧ t.addrl = s.addrl ∧ t.txb = s.txb ∧ t.rxb = s.rxb ∧ t.cfg = s.cfg ∧ t.env = e
      ∧ t.trace = (if s.ce then [.ce false] else []) ++ (if s.csN then [] else [.cs true]) ++ s.trace
      ∧ (s.radio.radioUnknown = false →
          t.radio
            = (if s.ce then Radio.onCE false else id) ((if s.csN then id else Radio.onCS true) s.radio))

/-- R312: RESET_SETTLE runs the ticks that are left and then the engine is IDLE with BUSY 0; a pending word waits meanwhile. That the last
tick itself sets IDLE is the model's reading (log entry 15). -/
def Obligations.ResetSettleEndsInIdle : Prop :=
  ∀ (s : State) (n : Nat), s.phase = .resetSettle → s.busy = true → s.settleCnt = n + 1 → s.env = [] →
    Host.Core.run core (n + 1) s
      = .next { s with phase := .idle, busy := false, settleCnt := 0, trace := List.replicate (n + 1) .tick ++ s.trace }
    ∧ (∀ k, k ≤ n → ∃ t, Host.Core.run core k s = .next t ∧ t.phase = .resetSettle ∧ t.busy = true ∧ t.cmdw = s.cmdw)

/-! ### The whole machine, in every environment -/

/-- The invariant of the machine (R20, R22, R24, R25, R29, R34, R39, R47, R49) holds after reset, for all parameters and every radio
that is between frames and sees the block's CE, and so at State.reset, whose parameters and radio are the model's choice (log
entries 1, 4). -/
def Obligations.InvariantAtReset : Prop :=
  (∀ (p : Params) (r : Radio), r.inFrame = false → r.ceSeen = false → (State.resetWith p r).Inv) ∧ State.reset.Inv

/-- The invariant of the machine is kept by every step, whatever the environment does. -/
def Obligations.InvariantKeptByEveryStep : Prop :=
  ∀ s t : State, s.Inv → step s = .next t → t.Inv

/-- R131: the framing rule: on the bus trace every frame opens with EvCS(0) and closes with EvCS(1), every exchange lies inside a
frame, no two frames overlap and no EvCE occurs inside one. It holds after reset and every step keeps it, reset steps included. -/
def Obligations.FramingRuleKept : Prop :=
  (∀ (p : Params) (r : Radio), csAfter (State.resetWith p r).trace = some (State.resetWith p r).csN)
    ∧ (∀ s t : State, s.Inv → csAfter s.trace = some s.csN → step s = .next t → csAfter t.trace = some t.csN)

/-- R211, R212: the settling rule: after a line event no other bus event comes before SETTLE_TICKS ticks. Every step keeps it
where no reset is scheduled. That premise is the model's reading of R311 against R212 (log entry 14). -/
def Obligations.SettlingRuleKept : Prop :=
  ∀ (s t : State) (m : Nat), s.Inv → s.noReset → ticksOwed s.cfg s.trace = some m → m ≤ s.settleCnt → step s = .next t →
    ∃ m', ticksOwed t.cfg t.trace = some m' ∧ m' ≤ t.settleCnt ∧ t.noReset

/-- R331: every host command ends: executed by an IDLE engine in any environment, it either stops or leaves RUN. -/
def Obligations.EveryCommandEnds : Prop :=
  ∀ (s t : State) (i : Instr) (w : Word), s.Inv → s.phase = .idle → encode i = .host w → exec i s = .next t → t.phase ≠ .run

/-- R35, R36, R280-R284: with no reset, a host command ends IDLE with RVALID 1 and BUSY 0, with the result code of its operand
alone, in any environment; RFLAG is 0 after an error and after every command but WRITE_PAYLOAD and AVAILABLE. -/
def Obligations.ResultCodeOfEveryCommand : Prop :=
  ∀ (s t : State) (i : Instr) (w : Word), s.Inv → s.noReset → s.phase = .idle → encode i = .host w → exec i s = .next t →
    t.phase = .idle ∧ t.busy = false ∧ t.rvalid = true
      ∧ t.rcode
        = (match i with
          | .openReadingPipe p => if 5#8 < p then .errPipe else .ok
          | .writePayload len => if s.cfg.payloadMax < len.toNat then .errLen else .ok
          | .readPayload len => if s.cfg.payloadMax < len.toNat then .errLen else .ok
          | _ => .ok)
      ∧ (t.rcode ≠ .ok → t.rflag = false)
      ∧ ((∀ len, i ≠ .writePayload len) → i ≠ .available → t.rflag = false)

/-- R280, R287: with no reset, a command that ends in an error emits no bus event and leaves RDATA, LSTAT, CE and the latches, in
any environment. -/
def Obligations.ErrorsAreSilentOnTheBus : Prop :=
  ∀ (s t : State) (i : Instr) (w : Word), s.Inv → s.noReset → s.phase = .idle → encode i = .host w → exec i s = .next t →
    t.rcode ≠ .ok →
    t.trace = s.trace ∧ t.rdata = s.rdata ∧ t.lstat = s.lstat ∧ t.csN = s.csN ∧ t.ce = s.ce ∧ t.addrl = s.addrl
      ∧ t.txb = s.txb ∧ t.rxb = s.rxb

/-- R28, R217: with no reset, CE after a host command, in any environment: 1 after START_LISTENING, 0 after BEGIN, STOP_LISTENING
and an accepted WRITE_PAYLOAD, unchanged after every other. -/
def Obligations.ChipEnableAfterEveryCommand : Prop :=
  ∀ (s t : State) (i : Instr) (w : Word), s.Inv → s.noReset → s.phase = .idle → encode i = .host w → exec i s = .next t →
    t.ce
      = match i with
        | .startListening => true
        | .stopListening => false
        | .beginRadio => false
        | .writePayload len => if s.cfg.payloadMax < len.toNat then s.ce else false
        | _ => s.ce

/-- R38, R86: no instruction writes ADDRL, TXB or a parameter, in any environment. -/
def Obligations.InstructionsLeaveTheHostLatches : Prop :=
  ∀ (i : Instr) (s t : State), exec i s = .next t → t.addrl = s.addrl ∧ t.txb = s.txb ∧ t.cfg = s.cfg

/-- R37, R39: of the host commands READ_REG alone writes RDATA (with no reset scheduled) and READ_PAYLOAD alone writes RXB, leaving
RXB[len..] unchanged; in any environment. -/
def Obligations.ResultLatchesAndTheirWriters : Prop :=
  ∀ (s t : State) (i : Instr) (w : Word), encode i = .host w → exec i s = .next t →
    ((∀ a, i ≠ .readReg a) → s.noReset → t.rdata = s.rdata)
    ∧ ((∀ len, i ≠ .readPayload len) → s.phase = .idle → t.rxb = s.rxb)
    ∧ (∀ (len : Byte) (k : Nat), i = .readPayload len → s.phase = .idle → len.toNat ≤ k → t.rxb[k]? = s.rxb[k]?)

/-- R51, R291: the refusal mark is never cleared, by no step of any agent, not even by reset. -/
def Obligations.RefusalMarkIsSticky : Prop :=
  ∀ s t : State, step s = .next t → s.radio.radioUnknown = true → t.radio.radioUnknown = true

/-- R330: the bus events a host command adds on a quiet machine: exchanges, line events and ticks, for every command and for the
error endings; the duration counted as R330 says is `ticks + XFER_TICKS x exchanges`. That an SPI command executed where no frame
stands at its command byte adds none is no row of R330 but the model's choice (log entry 11). -/
def Obligations.EventCounts : Prop :=
  ∀ (s t : State) (i : Instr), s.Ready → 1 ≤ s.cfg.pollMax → exec i s = .next t →
    ∀ n : Nat × Nat × Nat,
      n = (match i with
          | .writeReg _ _ | .readReg _ | .setChannel _ | .available => (2, 2, 2)
          | .setPaLevel _ => (4, 4, 4)
          | .beginRadio => (16, 17, 17)
          | .openWritingPipe => (6, 2, 2)
          | .openReadingPipe p => if 5#8 < p then (0, 0, 0) else (6, 2, 2)
          | .startListening | .stopListening => (4, 5, 5)
          | .readPayload len => if s.cfg.payloadMax < len.toNat then (0, 0, 0) else (3 + len.toNat, 4, 4)
          | .writePayload len =>
            if s.cfg.payloadMax < len.toNat then (0, 0, 0)
            else if s.radio.fTxDs = false ∧ s.radio.fMaxRt = false then
              (1 + len.toNat + 2 * s.cfg.pollMax, 4 + 2 * s.cfg.pollMax, 4 + 2 * s.cfg.pollMax)
            else (3 + len.toNat + 2, 8, 8)
          | .rRegister _ | .wRegister _ | .wTxPayload | .rRxPayload => (0, 0, 0)) →
      ∃ new, t.trace = new ++ s.trace
        ∧ new.length = n.1 + n.2.1 + n.2.2 * s.cfg.settleTicks
        ∧ new.countP (· == .tick) = n.2.2 * s.cfg.settleTicks
        ∧ duration s.cfg new = n.2.2 * s.cfg.settleTicks + s.cfg.xferTicks * n.1
end

