-- ==== Sys2Proof/Laws/State.lean ====
section
/-! SUPPORT. One lemma per field per named update of State, each true by rfl, so that no later proof unfolds a record update. -/

namespace Sys2Proof.Machine

variable (s : State)

/-! ### withSeq -/

@[simp] theorem withSeq_cfg (k : List MicroOp) : (s.withSeq k).cfg = s.cfg := rfl
@[simp] theorem withSeq_phase (k : List MicroOp) : (s.withSeq k).phase = s.phase := rfl
@[simp] theorem withSeq_seq (k : List MicroOp) : (s.withSeq k).seq = k := rfl
@[simp] theorem withSeq_op (k : List MicroOp) : (s.withSeq k).op = s.op := rfl
@[simp] theorem withSeq_a (k : List MicroOp) : (s.withSeq k).a = s.a := rfl
@[simp] theorem withSeq_v (k : List MicroOp) : (s.withSeq k).v = s.v := rfl
@[simp] theorem withSeq_settleCnt (k : List MicroOp) : (s.withSeq k).settleCnt = s.settleCnt := rfl
@[simp] theorem withSeq_pollCnt (k : List MicroOp) : (s.withSeq k).pollCnt = s.pollCnt := rfl
@[simp] theorem withSeq_tmp (k : List MicroOp) : (s.withSeq k).tmp = s.tmp := rfl
@[simp] theorem withSeq_csN (k : List MicroOp) : (s.withSeq k).csN = s.csN := rfl
@[simp] theorem withSeq_ce (k : List MicroOp) : (s.withSeq k).ce = s.ce := rfl
@[simp] theorem withSeq_cmdw (k : List MicroOp) : (s.withSeq k).cmdw = s.cmdw := rfl
@[simp] theorem withSeq_busy (k : List MicroOp) : (s.withSeq k).busy = s.busy := rfl
@[simp] theorem withSeq_rvalid (k : List MicroOp) : (s.withSeq k).rvalid = s.rvalid := rfl
@[simp] theorem withSeq_rcode (k : List MicroOp) : (s.withSeq k).rcode = s.rcode := rfl
@[simp] theorem withSeq_rflag (k : List MicroOp) : (s.withSeq k).rflag = s.rflag := rfl
@[simp] theorem withSeq_rdata (k : List MicroOp) : (s.withSeq k).rdata = s.rdata := rfl
@[simp] theorem withSeq_lstat (k : List MicroOp) : (s.withSeq k).lstat = s.lstat := rfl
@[simp] theorem withSeq_addrl (k : List MicroOp) : (s.withSeq k).addrl = s.addrl := rfl
@[simp] theorem withSeq_txb (k : List MicroOp) : (s.withSeq k).txb = s.txb := rfl
@[simp] theorem withSeq_rxb (k : List MicroOp) : (s.withSeq k).rxb = s.rxb := rfl
@[simp] theorem withSeq_radio (k : List MicroOp) : (s.withSeq k).radio = s.radio := rfl
@[simp] theorem withSeq_trace (k : List MicroOp) : (s.withSeq k).trace = s.trace := rfl
@[simp] theorem withSeq_env (k : List MicroOp) : (s.withSeq k).env = s.env := rfl
@[simp] theorem withSeq_draws (k : List MicroOp) : (s.withSeq k).draws = s.draws := rfl
@[simp] theorem withSeq_hostData (k : List MicroOp) : (s.withSeq k).hostData = s.hostData := rfl
@[simp] theorem withSeq_withSeq (x y : List MicroOp) : (s.withSeq x).withSeq y = s.withSeq y := rfl

/-! ### withEnv -/

@[simp] theorem withEnv_cfg (e : List EnvStep) : (s.withEnv e).cfg = s.cfg := rfl
@[simp] theorem withEnv_phase (e : List EnvStep) : (s.withEnv e).phase = s.phase := rfl
@[simp] theorem withEnv_seq (e : List EnvStep) : (s.withEnv e).seq = s.seq := rfl
@[simp] theorem withEnv_op (e : List EnvStep) : (s.withEnv e).op = s.op := rfl
@[simp] theorem withEnv_a (e : List EnvStep) : (s.withEnv e).a = s.a := rfl
@[simp] theorem withEnv_v (e : List EnvStep) : (s.withEnv e).v = s.v := rfl
@[simp] theorem withEnv_settleCnt (e : List EnvStep) : (s.withEnv e).settleCnt = s.settleCnt := rfl
@[simp] theorem withEnv_pollCnt (e : List EnvStep) : (s.withEnv e).pollCnt = s.pollCnt := rfl
@[simp] theorem withEnv_tmp (e : List EnvStep) : (s.withEnv e).tmp = s.tmp := rfl
@[simp] theorem withEnv_csN (e : List EnvStep) : (s.withEnv e).csN = s.csN := rfl
@[simp] theorem withEnv_ce (e : List EnvStep) : (s.withEnv e).ce = s.ce := rfl
@[simp] theorem withEnv_cmdw (e : List EnvStep) : (s.withEnv e).cmdw = s.cmdw := rfl
@[simp] theorem withEnv_busy (e : List EnvStep) : (s.withEnv e).busy = s.busy := rfl
@[simp] theorem withEnv_rvalid (e : List EnvStep) : (s.withEnv e).rvalid = s.rvalid := rfl
@[simp] theorem withEnv_rcode (e : List EnvStep) : (s.withEnv e).rcode = s.rcode := rfl
@[simp] theorem withEnv_rflag (e : List EnvStep) : (s.withEnv e).rflag = s.rflag := rfl
@[simp] theorem withEnv_rdata (e : List EnvStep) : (s.withEnv e).rdata = s.rdata := rfl
@[simp] theorem withEnv_lstat (e : List EnvStep) : (s.withEnv e).lstat = s.lstat := rfl
@[simp] theorem withEnv_addrl (e : List EnvStep) : (s.withEnv e).addrl = s.addrl := rfl
@[simp] theorem withEnv_txb (e : List EnvStep) : (s.withEnv e).txb = s.txb := rfl
@[simp] theorem withEnv_rxb (e : List EnvStep) : (s.withEnv e).rxb = s.rxb := rfl
@[simp] theorem withEnv_radio (e : List EnvStep) : (s.withEnv e).radio = s.radio := rfl
@[simp] theorem withEnv_trace (e : List EnvStep) : (s.withEnv e).trace = s.trace := rfl
@[simp] theorem withEnv_env (e : List EnvStep) : (s.withEnv e).env = e := rfl
@[simp] theorem withEnv_draws (e : List EnvStep) : (s.withEnv e).draws = s.draws := rfl
@[simp] theorem withEnv_hostData (e : List EnvStep) : (s.withEnv e).hostData = s.hostData := rfl
@[simp] theorem withEnv_withEnv (x y : List EnvStep) : (s.withEnv x).withEnv y = s.withEnv y := rfl

/-! ### react -/

@[simp] theorem react_cfg (f : Radio → Radio) : (s.react f).cfg = s.cfg := rfl
@[simp] theorem react_phase (f : Radio → Radio) : (s.react f).phase = s.phase := rfl
@[simp] theorem react_seq (f : Radio → Radio) : (s.react f).seq = s.seq := rfl
@[simp] theorem react_op (f : Radio → Radio) : (s.react f).op = s.op := rfl
@[simp] theorem react_a (f : Radio → Radio) : (s.react f).a = s.a := rfl
@[simp] theorem react_v (f : Radio → Radio) : (s.react f).v = s.v := rfl
@[simp] theorem react_settleCnt (f : Radio → Radio) : (s.react f).settleCnt = s.settleCnt := rfl
@[simp] theorem react_pollCnt (f : Radio → Radio) : (s.react f).pollCnt = s.pollCnt := rfl
@[simp] theorem react_tmp (f : Radio → Radio) : (s.react f).tmp = s.tmp := rfl
@[simp] theorem react_csN (f : Radio → Radio) : (s.react f).csN = s.csN := rfl
@[simp] theorem react_ce (f : Radio → Radio) : (s.react f).ce = s.ce := rfl
@[simp] theorem react_cmdw (f : Radio → Radio) : (s.react f).cmdw = s.cmdw := rfl
@[simp] theorem react_busy (f : Radio → Radio) : (s.react f).busy = s.busy := rfl
@[simp] theorem react_rvalid (f : Radio → Radio) : (s.react f).rvalid = s.rvalid := rfl
@[simp] theorem react_rcode (f : Radio → Radio) : (s.react f).rcode = s.rcode := rfl
@[simp] theorem react_rflag (f : Radio → Radio) : (s.react f).rflag = s.rflag := rfl
@[simp] theorem react_rdata (f : Radio → Radio) : (s.react f).rdata = s.rdata := rfl
@[simp] theorem react_lstat (f : Radio → Radio) : (s.react f).lstat = s.lstat := rfl
@[simp] theorem react_addrl (f : Radio → Radio) : (s.react f).addrl = s.addrl := rfl
@[simp] theorem react_txb (f : Radio → Radio) : (s.react f).txb = s.txb := rfl
@[simp] theorem react_rxb (f : Radio → Radio) : (s.react f).rxb = s.rxb := rfl
@[simp] theorem react_trace (f : Radio → Radio) : (s.react f).trace = s.trace := rfl
@[simp] theorem react_env (f : Radio → Radio) : (s.react f).env = s.env := rfl
@[simp] theorem react_draws (f : Radio → Radio) : (s.react f).draws = s.draws + 1 := rfl
@[simp] theorem react_hostData (f : Radio → Radio) : (s.react f).hostData = s.hostData := rfl

/-! ### driveCS -/

@[simp] theorem driveCS_cfg (l : Bool) : (driveCS l s).cfg = s.cfg := rfl
@[simp] theorem driveCS_phase (l : Bool) : (driveCS l s).phase = s.phase := rfl
@[simp] theorem driveCS_seq (l : Bool) : (driveCS l s).seq = s.seq := rfl
@[simp] theorem driveCS_op (l : Bool) : (driveCS l s).op = s.op := rfl
@[simp] theorem driveCS_a (l : Bool) : (driveCS l s).a = s.a := rfl
@[simp] theorem driveCS_v (l : Bool) : (driveCS l s).v = s.v := rfl
@[simp] theorem driveCS_settleCnt (l : Bool) : (driveCS l s).settleCnt = s.cfg.settleTicks := rfl
@[simp] theorem driveCS_pollCnt (l : Bool) : (driveCS l s).pollCnt = s.pollCnt := rfl
@[simp] theorem driveCS_tmp (l : Bool) : (driveCS l s).tmp = s.tmp := rfl
@[simp] theorem driveCS_csN (l : Bool) : (driveCS l s).csN = l := rfl
@[simp] theorem driveCS_ce (l : Bool) : (driveCS l s).ce = s.ce := rfl
@[simp] theorem driveCS_cmdw (l : Bool) : (driveCS l s).cmdw = s.cmdw := rfl
@[simp] theorem driveCS_busy (l : Bool) : (driveCS l s).busy = s.busy := rfl
@[simp] theorem driveCS_rvalid (l : Bool) : (driveCS l s).rvalid = s.rvalid := rfl
@[simp] theorem driveCS_rcode (l : Bool) : (driveCS l s).rcode = s.rcode := rfl
@[simp] theorem driveCS_rflag (l : Bool) : (driveCS l s).rflag = s.rflag := rfl
@[simp] theorem driveCS_rdata (l : Bool) : (driveCS l s).rdata = s.rdata := rfl
@[simp] theorem driveCS_lstat (l : Bool) : (driveCS l s).lstat = s.lstat := rfl
@[simp] theorem driveCS_addrl (l : Bool) : (driveCS l s).addrl = s.addrl := rfl
@[simp] theorem driveCS_txb (l : Bool) : (driveCS l s).txb = s.txb := rfl
@[simp] theorem driveCS_rxb (l : Bool) : (driveCS l s).rxb = s.rxb := rfl
@[simp] theorem driveCS_radio (l : Bool) : (driveCS l s).radio = (s.react (Radio.onCS l)).radio := rfl
@[simp] theorem driveCS_trace (l : Bool) : (driveCS l s).trace = .cs l :: s.trace := rfl
@[simp] theorem driveCS_env (l : Bool) : (driveCS l s).env = s.env := rfl
@[simp] theorem driveCS_draws (l : Bool) : (driveCS l s).draws = s.draws + 1 := rfl
@[simp] theorem driveCS_hostData (l : Bool) : (driveCS l s).hostData = s.hostData := rfl

/-! ### driveCE -/

@[simp] theorem driveCE_cfg (l : Bool) : (driveCE l s).cfg = s.cfg := rfl
@[simp] theorem driveCE_phase (l : Bool) : (driveCE l s).phase = s.phase := rfl
@[simp] theorem driveCE_seq (l : Bool) : (driveCE l s).seq = s.seq := rfl
@[simp] theorem driveCE_op (l : Bool) : (driveCE l s).op = s.op := rfl
@[simp] theorem driveCE_a (l : Bool) : (driveCE l s).a = s.a := rfl
@[simp] theorem driveCE_v (l : Bool) : (driveCE l s).v = s.v := rfl
@[simp] theorem driveCE_settleCnt (l : Bool) : (driveCE l s).settleCnt = s.cfg.settleTicks := rfl
@[simp] theorem driveCE_pollCnt (l : Bool) : (driveCE l s).pollCnt = s.pollCnt := rfl
@[simp] theorem driveCE_tmp (l : Bool) : (driveCE l s).tmp = s.tmp := rfl
@[simp] theorem driveCE_csN (l : Bool) : (driveCE l s).csN = s.csN := rfl
@[simp] theorem driveCE_ce (l : Bool) : (driveCE l s).ce = l := rfl
@[simp] theorem driveCE_cmdw (l : Bool) : (driveCE l s).cmdw = s.cmdw := rfl
@[simp] theorem driveCE_busy (l : Bool) : (driveCE l s).busy = s.busy := rfl
@[simp] theorem driveCE_rvalid (l : Bool) : (driveCE l s).rvalid = s.rvalid := rfl
@[simp] theorem driveCE_rcode (l : Bool) : (driveCE l s).rcode = s.rcode := rfl
@[simp] theorem driveCE_rflag (l : Bool) : (driveCE l s).rflag = s.rflag := rfl
@[simp] theorem driveCE_rdata (l : Bool) : (driveCE l s).rdata = s.rdata := rfl
@[simp] theorem driveCE_lstat (l : Bool) : (driveCE l s).lstat = s.lstat := rfl
@[simp] theorem driveCE_addrl (l : Bool) : (driveCE l s).addrl = s.addrl := rfl
@[simp] theorem driveCE_txb (l : Bool) : (driveCE l s).txb = s.txb := rfl
@[simp] theorem driveCE_rxb (l : Bool) : (driveCE l s).rxb = s.rxb := rfl
@[simp] theorem driveCE_radio (l : Bool) : (driveCE l s).radio = (s.react (Radio.onCE l)).radio := rfl
@[simp] theorem driveCE_trace (l : Bool) : (driveCE l s).trace = .ce l :: s.trace := rfl
@[simp] theorem driveCE_env (l : Bool) : (driveCE l s).env = s.env := rfl
@[simp] theorem driveCE_draws (l : Bool) : (driveCE l s).draws = s.draws + 1 := rfl
@[simp] theorem driveCE_hostData (l : Bool) : (driveCE l s).hostData = s.hostData := rfl

/-! ### xfer -/

@[simp] theorem xfer_cfg (m : Byte) : (xfer m s).cfg = s.cfg := rfl
@[simp] theorem xfer_phase (m : Byte) : (xfer m s).phase = s.phase := rfl
@[simp] theorem xfer_seq (m : Byte) : (xfer m s).seq = s.seq := rfl
@[simp] theorem xfer_op (m : Byte) : (xfer m s).op = s.op := rfl
@[simp] theorem xfer_a (m : Byte) : (xfer m s).a = s.a := rfl
@[simp] theorem xfer_v (m : Byte) : (xfer m s).v = s.v := rfl
@[simp] theorem xfer_settleCnt (m : Byte) : (xfer m s).settleCnt = s.settleCnt := rfl
@[simp] theorem xfer_pollCnt (m : Byte) : (xfer m s).pollCnt = s.pollCnt := rfl
@[simp] theorem xfer_tmp (m : Byte) : (xfer m s).tmp = s.tmp := rfl
@[simp] theorem xfer_csN (m : Byte) : (xfer m s).csN = s.csN := rfl
@[simp] theorem xfer_ce (m : Byte) : (xfer m s).ce = s.ce := rfl
@[simp] theorem xfer_cmdw (m : Byte) : (xfer m s).cmdw = s.cmdw := rfl
@[simp] theorem xfer_busy (m : Byte) : (xfer m s).busy = s.busy := rfl
@[simp] theorem xfer_rvalid (m : Byte) : (xfer m s).rvalid = s.rvalid := rfl
@[simp] theorem xfer_rcode (m : Byte) : (xfer m s).rcode = s.rcode := rfl
@[simp] theorem xfer_rflag (m : Byte) : (xfer m s).rflag = s.rflag := rfl
@[simp] theorem xfer_rdata (m : Byte) : (xfer m s).rdata = s.rdata := rfl
@[simp] theorem xfer_lstat (m : Byte) : (xfer m s).lstat = s.lstat := rfl
@[simp] theorem xfer_addrl (m : Byte) : (xfer m s).addrl = s.addrl := rfl
@[simp] theorem xfer_txb (m : Byte) : (xfer m s).txb = s.txb := rfl
@[simp] theorem xfer_rxb (m : Byte) : (xfer m s).rxb = s.rxb := rfl
@[simp] theorem xfer_radio (m : Byte) : (xfer m s).radio = (s.react (Radio.onXfer s.cfg m)).radio := rfl
@[simp] theorem xfer_trace (m : Byte) : (xfer m s).trace = .xfer m s.misoByte :: s.trace := rfl
@[simp] theorem xfer_env (m : Byte) : (xfer m s).env = s.env := rfl
@[simp] theorem xfer_draws (m : Byte) : (xfer m s).draws = s.draws + 1 := rfl
@[simp] theorem xfer_hostData (m : Byte) : (xfer m s).hostData = s.hostData := rfl

/-! ### commandByte -/

@[simp] theorem commandByte_cfg (c : Byte) : (commandByte c s).cfg = s.cfg := rfl
@[simp] theorem commandByte_phase (c : Byte) : (commandByte c s).phase = s.phase := rfl
@[simp] theorem commandByte_seq (c : Byte) : (commandByte c s).seq = s.seq := rfl
@[simp] theorem commandByte_op (c : Byte) : (commandByte c s).op = s.op := rfl
@[simp] theorem commandByte_a (c : Byte) : (commandByte c s).a = s.a := rfl
@[simp] theorem commandByte_v (c : Byte) : (commandByte c s).v = s.v := rfl
@[simp] theorem commandByte_settleCnt (c : Byte) : (commandByte c s).settleCnt = s.settleCnt := rfl
@[simp] theorem commandByte_pollCnt (c : Byte) : (commandByte c s).pollCnt = s.pollCnt := rfl
@[simp] theorem commandByte_tmp (c : Byte) : (commandByte c s).tmp = s.tmp := rfl
@[simp] theorem commandByte_csN (c : Byte) : (commandByte c s).csN = s.csN := rfl
@[simp] theorem commandByte_ce (c : Byte) : (commandByte c s).ce = s.ce := rfl
@[simp] theorem commandByte_cmdw (c : Byte) : (commandByte c s).cmdw = s.cmdw := rfl
@[simp] theorem commandByte_busy (c : Byte) : (commandByte c s).busy = s.busy := rfl
@[simp] theorem commandByte_rvalid (c : Byte) : (commandByte c s).rvalid = s.rvalid := rfl
@[simp] theorem commandByte_rcode (c : Byte) : (commandByte c s).rcode = s.rcode := rfl
@[simp] theorem commandByte_rflag (c : Byte) : (commandByte c s).rflag = s.rflag := rfl
@[simp] theorem commandByte_rdata (c : Byte) : (commandByte c s).rdata = s.rdata := rfl
@[simp] theorem commandByte_lstat (c : Byte) : (commandByte c s).lstat = s.misoByte := rfl
@[simp] theorem commandByte_addrl (c : Byte) : (commandByte c s).addrl = s.addrl := rfl
@[simp] theorem commandByte_txb (c : Byte) : (commandByte c s).txb = s.txb := rfl
@[simp] theorem commandByte_rxb (c : Byte) : (commandByte c s).rxb = s.rxb := rfl
@[simp] theorem commandByte_radio (c : Byte) : (commandByte c s).radio = (s.react (Radio.onXfer s.cfg c)).radio := rfl
@[simp] theorem commandByte_trace (c : Byte) : (commandByte c s).trace = .xfer c s.misoByte :: s.trace := rfl
@[simp] theorem commandByte_env (c : Byte) : (commandByte c s).env = s.env := rfl
@[simp] theorem commandByte_draws (c : Byte) : (commandByte c s).draws = s.draws + 1 := rfl
@[simp] theorem commandByte_hostData (c : Byte) : (commandByte c s).hostData = s.hostData := rfl

/-! ### settleTick -/

@[simp] theorem settleTick_cfg : (settleTick s).cfg = s.cfg := rfl
@[simp] theorem settleTick_phase : (settleTick s).phase = s.phase := rfl
@[simp] theorem settleTick_seq : (settleTick s).seq = s.seq := rfl
@[simp] theorem settleTick_op : (settleTick s).op = s.op := rfl
@[simp] theorem settleTick_a : (settleTick s).a = s.a := rfl
@[simp] theorem settleTick_v : (settleTick s).v = s.v := rfl
@[simp] theorem settleTick_settleCnt : (settleTick s).settleCnt = s.settleCnt - 1 := rfl
@[simp] theorem settleTick_pollCnt : (settleTick s).pollCnt = s.pollCnt := rfl
@[simp] theorem settleTick_tmp : (settleTick s).tmp = s.tmp := rfl
@[simp] theorem settleTick_csN : (settleTick s).csN = s.csN := rfl
@[simp] theorem settleTick_ce : (settleTick s).ce = s.ce := rfl
@[simp] theorem settleTick_cmdw : (settleTick s).cmdw = s.cmdw := rfl
@[simp] theorem settleTick_busy : (settleTick s).busy = s.busy := rfl
@[simp] theorem settleTick_rvalid : (settleTick s).rvalid = s.rvalid := rfl
@[simp] theorem settleTick_rcode : (settleTick s).rcode = s.rcode := rfl
@[simp] theorem settleTick_rflag : (settleTick s).rflag = s.rflag := rfl
@[simp] theorem settleTick_rdata : (settleTick s).rdata = s.rdata := rfl
@[simp] theorem settleTick_lstat : (settleTick s).lstat = s.lstat := rfl
@[simp] theorem settleTick_addrl : (settleTick s).addrl = s.addrl := rfl
@[simp] theorem settleTick_txb : (settleTick s).txb = s.txb := rfl
@[simp] theorem settleTick_rxb : (settleTick s).rxb = s.rxb := rfl
@[simp] theorem settleTick_radio : (settleTick s).radio = s.radio := rfl
@[simp] theorem settleTick_trace : (settleTick s).trace = .tick :: s.trace := rfl
@[simp] theorem settleTick_env : (settleTick s).env = s.env := rfl
@[simp] theorem settleTick_draws : (settleTick s).draws = s.draws := rfl
@[simp] theorem settleTick_hostData : (settleTick s).hostData = s.hostData := rfl

/-! ### accept -/

@[simp] theorem accept_cfg (w : Word) (ops : List MicroOp) : (accept w ops s).cfg = s.cfg := rfl
@[simp] theorem accept_phase (w : Word) (ops : List MicroOp) : (accept w ops s).phase = .run := rfl
@[simp] theorem accept_seq (w : Word) (ops : List MicroOp) : (accept w ops s).seq = ops := rfl
@[simp] theorem accept_op (w : Word) (ops : List MicroOp) : (accept w ops s).op = opOf w := rfl
@[simp] theorem accept_a (w : Word) (ops : List MicroOp) : (accept w ops s).a = aOf w := rfl
@[simp] theorem accept_v (w : Word) (ops : List MicroOp) : (accept w ops s).v = vOf w := rfl
@[simp] theorem accept_settleCnt (w : Word) (ops : List MicroOp) : (accept w ops s).settleCnt = s.settleCnt := rfl
@[simp] theorem accept_pollCnt (w : Word) (ops : List MicroOp) : (accept w ops s).pollCnt = s.pollCnt := rfl
@[simp] theorem accept_tmp (w : Word) (ops : List MicroOp) : (accept w ops s).tmp = s.tmp := rfl
@[simp] theorem accept_csN (w : Word) (ops : List MicroOp) : (accept w ops s).csN = s.csN := rfl
@[simp] theorem accept_ce (w : Word) (ops : List MicroOp) : (accept w ops s).ce = s.ce := rfl
@[simp] theorem accept_cmdw (w : Word) (ops : List MicroOp) : (accept w ops s).cmdw = none := rfl
@[simp] theorem accept_busy (w : Word) (ops : List MicroOp) : (accept w ops s).busy = true := rfl
@[simp] theorem accept_rvalid (w : Word) (ops : List MicroOp) : (accept w ops s).rvalid = false := rfl
@[simp] theorem accept_rcode (w : Word) (ops : List MicroOp) : (accept w ops s).rcode = s.rcode := rfl
@[simp] theorem accept_rflag (w : Word) (ops : List MicroOp) : (accept w ops s).rflag = s.rflag := rfl
@[simp] theorem accept_rdata (w : Word) (ops : List MicroOp) : (accept w ops s).rdata = s.rdata := rfl
@[simp] theorem accept_lstat (w : Word) (ops : List MicroOp) : (accept w ops s).lstat = s.lstat := rfl
@[simp] theorem accept_addrl (w : Word) (ops : List MicroOp) : (accept w ops s).addrl = s.addrl := rfl
@[simp] theorem accept_txb (w : Word) (ops : List MicroOp) : (accept w ops s).txb = s.txb := rfl
@[simp] theorem accept_rxb (w : Word) (ops : List MicroOp) : (accept w ops s).rxb = s.rxb := rfl
@[simp] theorem accept_radio (w : Word) (ops : List MicroOp) : (accept w ops s).radio = s.radio := rfl
@[simp] theorem accept_trace (w : Word) (ops : List MicroOp) : (accept w ops s).trace = s.trace := rfl
@[simp] theorem accept_env (w : Word) (ops : List MicroOp) : (accept w ops s).env = s.env := rfl
@[simp] theorem accept_draws (w : Word) (ops : List MicroOp) : (accept w ops s).draws = s.draws := rfl
@[simp] theorem accept_hostData (w : Word) (ops : List MicroOp) : (accept w ops s).hostData = s.hostData := rfl

/-! ### complete -/

@[simp] theorem complete_cfg (c : ResultCode) (b : Bool) : (complete c b s).cfg = s.cfg := rfl
@[simp] theorem complete_phase (c : ResultCode) (b : Bool) : (complete c b s).phase = .idle := rfl
@[simp] theorem complete_seq (c : ResultCode) (b : Bool) : (complete c b s).seq = [] := rfl
@[simp] theorem complete_op (c : ResultCode) (b : Bool) : (complete c b s).op = s.op := rfl
@[simp] theorem complete_a (c : ResultCode) (b : Bool) : (complete c b s).a = s.a := rfl
@[simp] theorem complete_v (c : ResultCode) (b : Bool) : (complete c b s).v = s.v := rfl
@[simp] theorem complete_settleCnt (c : ResultCode) (b : Bool) : (complete c b s).settleCnt = s.settleCnt := rfl
@[simp] theorem complete_pollCnt (c : ResultCode) (b : Bool) : (complete c b s).pollCnt = s.pollCnt := rfl
@[simp] theorem complete_tmp (c : ResultCode) (b : Bool) : (complete c b s).tmp = s.tmp := rfl
@[simp] theorem complete_csN (c : ResultCode) (b : Bool) : (complete c b s).csN = s.csN := rfl
@[simp] theorem complete_ce (c : ResultCode) (b : Bool) : (complete c b s).ce = s.ce := rfl
@[simp] theorem complete_cmdw (c : ResultCode) (b : Bool) : (complete c b s).cmdw = s.cmdw := rfl
@[simp] theorem complete_busy (c : ResultCode) (b : Bool) : (complete c b s).busy = false := rfl
@[simp] theorem complete_rvalid (c : ResultCode) (b : Bool) : (complete c b s).rvalid = true := rfl
@[simp] theorem complete_rcode (c : ResultCode) (b : Bool) : (complete c b s).rcode = c := rfl
@[simp] theorem complete_rflag (c : ResultCode) (b : Bool) : (complete c b s).rflag = b := rfl
@[simp] theorem complete_rdata (c : ResultCode) (b : Bool) : (complete c b s).rdata = s.rdata := rfl
@[simp] theorem complete_lstat (c : ResultCode) (b : Bool) : (complete c b s).lstat = s.lstat := rfl
@[simp] theorem complete_addrl (c : ResultCode) (b : Bool) : (complete c b s).addrl = s.addrl := rfl
@[simp] theorem complete_txb (c : ResultCode) (b : Bool) : (complete c b s).txb = s.txb := rfl
@[simp] theorem complete_rxb (c : ResultCode) (b : Bool) : (complete c b s).rxb = s.rxb := rfl
@[simp] theorem complete_radio (c : ResultCode) (b : Bool) : (complete c b s).radio = s.radio := rfl
@[simp] theorem complete_trace (c : ResultCode) (b : Bool) : (complete c b s).trace = s.trace := rfl
@[simp] theorem complete_env (c : ResultCode) (b : Bool) : (complete c b s).env = s.env := rfl
@[simp] theorem complete_draws (c : ResultCode) (b : Bool) : (complete c b s).draws = s.draws := rfl
@[simp] theorem complete_hostData (c : ResultCode) (b : Bool) : (complete c b s).hostData = s.hostData := rfl

/-! ### The radio under a reaction -/

/-- A reaction of a known radio that leaves it known is that reaction. -/
theorem react_radio_known {s : State} {f : Radio → Radio} (h : s.radio.radioUnknown = false)
    (hf : (f s.radio).radioUnknown = false) : (s.react f).radio = f s.radio := by
  simp [State.react, h, hf]

/-- The refusal mark is never lost in a reaction (R51, R291). -/
theorem react_keeps_unknown {s : State} (f : Radio → Radio) (h : s.radio.radioUnknown = true) :
    (s.react f).radio.radioUnknown = true := by
  simp [State.react, h]

end Sys2Proof.Machine
end

