-- ==== Sys2Proof/Laws/Run.lean ====
section
/-! SUPPORT. Running a command or a frame on a quiet machine (no environment move scheduled): the run is the fold of its
procedure's primitives, each line drive taking its settling ticks with it. -/

namespace Sys2Proof.Machine

/-- `s` after the ticks that are still owed. -/
def settled (s : State) : State :=
  { s with settleCnt := 0, trace := List.replicate s.settleCnt .tick ++ s.trace }

/-- The effect of one event primitive with the settling that follows it. -/
def opStep (s : State) (op : MicroOp) : Except Fault State :=
  match op with
  | .driveCS l => .ok (settled (driveCS l s))
  | .driveCE l => .ok (settled (driveCE l s))
  | .cmd c     => .ok (commandByte c s)
  | .out src   => (sourceByte src s).map (fun b => xfer b s)
  | .read dst  => .ok (readDataByte dst s)
  | .pollLoop  => .ok s
  | .pollTest  => .ok s
  | .finish _  => .ok s

/-- An event primitive: neither a pure test nor the end step. -/
def MicroOp.isEvent : MicroOp → Bool
  | .driveCS _ => true
  | .driveCE _ => true
  | .cmd _     => true
  | .out _     => true
  | .read _    => true
  | .pollLoop  => false
  | .pollTest  => false
  | .finish _  => false

/-- Engine steps of one event primitive with its settling. -/
def opCost (p : Params) : MicroOp → Nat
  | .driveCS _ => p.settleTicks + 1
  | .driveCE _ => p.settleTicks + 1
  | _          => 1

/-- Engine steps of a list of event primitives. -/
def opsCost (p : Params) (ops : List MicroOp) : Nat := (ops.map (opCost p)).sum

/-- The fold of a list of event primitives. -/
def opsRun : List MicroOp → State → Except Fault State
  | [], s => .ok s
  | op :: rest, s =>
    match opStep s op with
    | .ok t    => opsRun rest t
    | .error f => .error f

@[simp] theorem opsRun_nil (s : State) : opsRun [] s = .ok s := rfl

theorem opsRun_append (l k : List MicroOp) (s : State) :
    opsRun (l ++ k) s =
      match opsRun l s with
      | .ok t    => opsRun k t
      | .error f => .error f := by
  induction l generalizing s with
  | nil => rfl
  | cons op rest ih =>
    simp only [List.cons_append, opsRun]
    cases opStep s op with
    | ok t => exact ih t
    | error f => rfl

@[simp] theorem opsCost_nil (p : Params) : opsCost p [] = 0 := rfl

@[simp] theorem opsCost_cons (p : Params) (op : MicroOp) (l : List MicroOp) :
    opsCost p (op :: l) = opCost p op + opsCost p l := rfl

@[simp] theorem opsCost_append (p : Params) (l k : List MicroOp) :
    opsCost p (l ++ k) = opsCost p l + opsCost p k := by
  simp [opsCost]

/-! ### What an event primitive leaves alone -/

theorem opStep_keeps {s t : State} {op : MicroOp} (h : opStep s op = .ok t) :
    t.cfg = s.cfg ∧ t.phase = s.phase ∧ t.env = s.env ∧ (s.settleCnt = 0 → t.settleCnt = 0) := by
  cases op with
  | driveCS l => cases h; exact ⟨rfl, rfl, rfl, fun _ => rfl⟩
  | driveCE l => cases h; exact ⟨rfl, rfl, rfl, fun _ => rfl⟩
  | cmd c => cases h; exact ⟨rfl, rfl, rfl, id⟩
  | out src =>
    simp only [opStep] at h
    cases hb : sourceByte src s with
    | ok b => rw [hb] at h; cases h; exact ⟨rfl, rfl, rfl, id⟩
    | error f => rw [hb] at h; cases h
  | read dst =>
    cases h
    cases dst <;> exact ⟨rfl, rfl, rfl, id⟩
  | pollLoop => cases h; exact ⟨rfl, rfl, rfl, id⟩
  | pollTest => cases h; exact ⟨rfl, rfl, rfl, id⟩
  | finish e => cases h; exact ⟨rfl, rfl, rfl, id⟩

/-- An event primitive neither reads nor writes the rest of the procedure. -/
theorem opStep_seq (s : State) (op : MicroOp) (k : List MicroOp) :
    opStep (s.withSeq k) op = (opStep s op).map (fun t => t.withSeq k) := by
  cases op with
  | out src =>
    have hsrc : sourceByte src (s.withSeq k) = sourceByte src s := by cases src <;> rfl
    simp only [opStep, hsrc]
    cases sourceByte src s <;> rfl
  | read dst => cases dst <;> rfl
  | _ => rfl

theorem opsRun_keeps {ops : List MicroOp} {s t : State} (h : opsRun ops s = .ok t) :
    t.cfg = s.cfg ∧ t.phase = s.phase ∧ t.env = s.env ∧ (s.settleCnt = 0 → t.settleCnt = 0) := by
  induction ops generalizing s with
  | nil => cases h; exact ⟨rfl, rfl, rfl, id⟩
  | cons op rest ih =>
    simp only [opsRun] at h
    cases hs : opStep s op with
    | ok u =>
      rw [hs] at h
      obtain ⟨h1, h2, h3, h4⟩ := opStep_keeps hs
      obtain ⟨g1, g2, g3, g4⟩ := ih h
      exact ⟨g1.trans h1, g2.trans h2, g3.trans h3, fun h0 => g4 (h4 h0)⟩
    | error f => rw [hs] at h; cases h

/-! ### The run -/

theorem move_quiet {s : State} (h : s.env = []) : move s = engineStep s := by
  simp [move, scheduled, h]

theorem runUntil_next {done : State → Bool} {s t : State} (n : Nat) (hd : done s = false) (hm : move s = .next t) :
    runUntil done (n + 1) s = runUntil done n t := by
  simp [runUntil, hd, hm]

theorem runUntil_done {done : State → Bool} {s : State} (n : Nat) (hd : done s = true) : runUntil done n s = .next s := by
  cases n <;> simp [runUntil, hd]

/-- The ticks that are owed run out, nothing else happening (R210). -/
theorem runUntil_settle {done : State → Bool} (k n : Nat) {s : State} (hk : s.settleCnt = k) (he : s.env = [])
    (hp : s.phase = .run) (hd : ∀ t : State, t.phase = .run → t.settleCnt ≠ 0 → done t = false) :
    runUntil done (k + n) s = runUntil done n (settled s) := by
  induction k generalizing s with
  | zero =>
    have : settled s = s := by simp [settled, hk]; rw [← hk]
    simp [this]
  | succ k ih =>
    have h0 : s.settleCnt ≠ 0 := by omega
    have hm : move s = .next (settleTick s) := by simp [move_quiet he, engineStep, hp, h0]
    rw [show k + 1 + n = (k + n) + 1 by omega, runUntil_next _ (hd s hp h0) hm, ih (by simp [hk]) (by simp [he]) (by simp [hp])]
    congr 1
    simp only [settled, settleTick_settleCnt, settleTick_trace, hk]
    simp [settleTick, List.replicate_succ', List.append_assoc]

/-- The engine's step at an event primitive. -/
theorem engineStep_event {s : State} {op : MicroOp} {k : List MicroOp} (hop : op.isEvent = true) (hp : s.phase = .run)
    (h0 : s.settleCnt = 0) (hs : s.seq = op :: k) : engineStep s = primitive op (s.withSeq k) := by
  have hr : resolve s = op :: k := by
    unfold resolve
    rw [hs]
    cases op <;> first | rfl | cases hop
  simp [engineStep, hp, h0, microStep, hr]

/-- One event primitive with its settling, under any stop condition that lets it run. -/
theorem runUntil_op {done : State → Bool} {s : State} {op : MicroOp} {k : List MicroOp} (n : Nat) (hop : op.isEvent = true)
    (hp : s.phase = .run) (he : s.env = []) (h0 : s.settleCnt = 0) (hs : s.seq = op :: k) (hd0 : done s = false)
    (hd : ∀ t : State, t.phase = .run → t.settleCnt ≠ 0 → done t = false) :
    runUntil done (opCost s.cfg op + n) s =
      match opStep (s.withSeq k) op with
      | .ok t    => runUntil done n t
      | .error f => .fault f := by
  have hm := move_quiet he
  rw [engineStep_event hop hp h0 hs] at hm
  cases op with
  | driveCS l =>
    rw [opCost, show s.cfg.settleTicks + 1 + n = (s.cfg.settleTicks + n) + 1 by omega, runUntil_next _ hd0 hm]
    exact runUntil_settle _ n rfl he hp hd
  | driveCE l =>
    rw [opCost, show s.cfg.settleTicks + 1 + n = (s.cfg.settleTicks + n) + 1 by omega, runUntil_next _ hd0 hm]
    exact runUntil_settle _ n rfl he hp hd
  | cmd c => rw [show opCost s.cfg (.cmd c) = 1 from rfl, Nat.add_comm 1 n, runUntil_next _ hd0 hm]; rfl
  | out src =>
    have hsrc : sourceByte src (s.withSeq k) = sourceByte src s := by cases src <;> rfl
    rw [show opCost s.cfg (.out src) = 1 from rfl, Nat.add_comm 1 n]
    simp only [opStep, hsrc]
    cases hb : sourceByte src s with
    | ok b =>
      rw [primitive, hsrc, hb] at hm
      rw [runUntil_next _ hd0 hm]
      rfl
    | error f =>
      rw [primitive, hsrc, hb] at hm
      simp [runUntil, hd0, hm, Except.map]
  | read dst => rw [show opCost s.cfg (.read dst) = 1 from rfl, Nat.add_comm 1 n, runUntil_next _ hd0 hm]; rfl
  | pollLoop => cases hop
  | pollTest => cases hop
  | finish e => cases hop

theorem commandDone_run {s : State} (h : s.phase = .run) : commandDone s = false := by simp [commandDone, h]

/-- A list of event primitives at the head of a running command's procedure runs as its fold. -/
theorem runUntil_ops (ops k : List MicroOp) (n : Nat) {s : State} (hops : ops.all MicroOp.isEvent = true)
    (hp : s.phase = .run) (he : s.env = []) (h0 : s.settleCnt = 0) :
    runUntil commandDone (opsCost s.cfg ops + n) (s.withSeq (ops ++ k)) =
      match opsRun ops s with
      | .ok t    => runUntil commandDone n (t.withSeq k)
      | .error f => .fault f := by
  induction ops generalizing s with
  | nil => simp [opsRun]
  | cons op rest ih =>
    simp only [List.all_cons, Bool.and_eq_true] at hops
    have h := runUntil_op (done := commandDone) (s := s.withSeq (op :: (rest ++ k))) (k := rest ++ k)
      (opsCost s.cfg rest + n) hops.1 hp he h0 rfl (commandDone_run hp) (fun t ht _ => commandDone_run ht)
    rw [withSeq_cfg, withSeq_withSeq, opStep_seq] at h
    rw [opsCost_cons, Nat.add_assoc, List.cons_append, h]
    simp only [opsRun]
    cases hst : opStep s op with
    | ok t =>
      obtain ⟨h1, h2, h3, h4⟩ := opStep_keeps hst
      have := ih (s := t) hops.2 (h2.trans hp) (h3.trans he) (h4 h0)
      rw [h1] at this
      simpa [Except.map] using this
    | error f => simp [Except.map]

theorem endStep_seq (e : Ending) (s : State) (k : List MicroOp) : endStep e (s.withSeq k) = endStep e s := by
  cases e <;> rfl

/-- The end step at the end of a procedure. -/
theorem runUntil_finish {s : State} {e : Ending} {k : List MicroOp} (n : Nat) (hp : s.phase = .run) (he : s.env = [])
    (h0 : s.settleCnt = 0) (hs : s.seq = .finish e :: k) :
    runUntil commandDone (n + 1) s = .next (endStep e s) := by
  have hm : move s = .next (endStep e s) := by
    simp only [move_quiet he, engineStep, hp, h0, microStep, resolve, hs, primitive, if_true]
    rw [endStep_seq]
  rw [runUntil_next n (commandDone_run hp) hm, runUntil_done]
  cases e <;> rfl

/-- A host command on a quiet IDLE machine: accept, the fold of its event primitives, its end step. -/
theorem hostCommand_quiet {s : State} (w : Word) (ops : List MicroOp) (e : Ending) (hi : s.phase = .idle) (he : s.env = [])
    (h0 : s.settleCnt = 0) (hops : ops.all MicroOp.isEvent = true) (hc : opsCost s.cfg ops + 1 ≤ commandBound s.cfg) :
    hostCommand w (ops ++ [.finish e]) s =
      match opsRun ops (accept w [] s) with
      | .ok t    => .next (endStep e t)
      | .error f => .fault f := by
  obtain ⟨n, hn⟩ := Nat.exists_eq_add_of_le hc
  rw [hostCommand, if_pos hi, runCommand]
  have h := runUntil_ops ops [.finish e] (n + 1) (s := accept w [] s) hops rfl (by simp [he]) (by simp [h0])
  rw [show accept w (ops ++ [.finish e]) s = (accept w [] s).withSeq (ops ++ [.finish e]) from rfl]
  rw [show ((accept w [] s).withSeq (ops ++ [.finish e])).env.length
      + commandBound ((accept w [] s).withSeq (ops ++ [.finish e])).cfg
      = opsCost (accept w [] s).cfg ops + (n + 1) by simp [he, hn]; omega]
  rw [h]
  cases hr : opsRun ops (accept w [] s) with
  | error f => rfl
  | ok t =>
    obtain ⟨_, h2, h3, h4⟩ := opsRun_keeps hr
    have hf := runUntil_finish (s := t.withSeq [.finish e]) n h2 (h3.trans (by simp [he])) (h4 (by simp [h0])) rfl
    rwa [endStep_seq] at hf

end Sys2Proof.Machine
end

