-- ==== Sys2Proof/Laws/Frame.lean ====
section
/-! SUPPORT. What the frames of a quiet machine do: opening, the exchanges of a data phase, closing, and each frame form of the
block as one equation. -/

namespace Sys2Proof.Machine

/-! ### Decoding of the block's command bytes -/

@[simp] theorem decodeSpi_wcmd (a : RegAddr) : decodeSpi (wcmd a) = .ok (.wRegister a) := by revert a; decide

@[simp] theorem decodeSpi_rcmd (a : RegAddr) : decodeSpi (rcmd a) = .ok (.rRegister a) := by revert a; decide

@[simp] theorem decodeSpi_txPayload : decodeSpi 0xA0#8 = .ok .wTxPayload := by decide

@[simp] theorem decodeSpi_rxPayload : decodeSpi 0x61#8 = .ok .rRxPayload := by decide

/-! ### Data phases -/

@[simp] theorem sourceByte_xfer (src : ByteSource) (m : Byte) (s : State) : sourceByte src (xfer m s) = sourceByte src s := by
  cases src <;> rfl

@[simp] theorem sourceByte_driveCS (src : ByteSource) (l : Bool) (s : State) :
    sourceByte src (driveCS l s) = sourceByte src s := by
  cases src <;> rfl

@[simp] theorem sourceByte_commandByte (src : ByteSource) (c : Byte) (s : State) :
    sourceByte src (commandByte c s) = sourceByte src s := by
  cases src <;> rfl

@[simp] theorem sourceByte_settled (src : ByteSource) (s : State) : sourceByte src (settled s) = sourceByte src s := by
  cases src <;> rfl

@[simp] theorem sourceByte_withSeq (src : ByteSource) (s : State) (k : List MicroOp) :
    sourceByte src (s.withSeq k) = sourceByte src s := by
  cases src <;> rfl

/-- The exchange of the bytes `bs`, one after the other. -/
def sendAll (bs : List Byte) (s : State) : State := bs.foldl (fun t b => xfer b t) s

@[simp] theorem sendAll_nil (s : State) : sendAll [] s = s := rfl

@[simp] theorem sendAll_cons (b : Byte) (bs : List Byte) (s : State) : sendAll (b :: bs) s = sendAll bs (xfer b s) := rfl

/-- A write data phase whose sources hold the bytes `bs` sends them in order (R75, R133). -/
theorem opsRun_outs {srcs : List ByteSource} {bs : List Byte} {s : State}
    (h : srcs.map (fun src => sourceByte src s) = bs.map .ok) : opsRun (srcs.map .out) s = .ok (sendAll bs s) := by
  induction srcs generalizing bs s with
  | nil =>
    cases bs with
    | nil => rfl
    | cons b bs => simp at h
  | cons src srcs ih =>
    cases bs with
    | nil => simp at h
    | cons b bs =>
      simp only [List.map_cons, List.cons.injEq] at h
      simp only [List.map_cons, opsRun, opStep, h.1, Except.map]
      exact ih (by simpa using h.2)

/-- A write data phase faults at its first source that has no byte (R39, R130). -/
theorem opsRun_outs_fault {srcs rest : List ByteSource} {bs : List Byte} {src : ByteSource} {f : Fault} {s : State}
    (h : srcs.map (fun src => sourceByte src s) = bs.map .ok) (hf : sourceByte src s = .error f) (k : List MicroOp) :
    opsRun ((srcs ++ src :: rest).map .out ++ k) s = .error f := by
  induction srcs generalizing bs s with
  | nil => simp [opsRun, opStep, hf, Except.map]
  | cons src' srcs ih =>
    cases bs with
    | nil => simp at h
    | cons b bs =>
      simp only [List.map_cons, List.cons.injEq] at h
      simp only [List.cons_append, List.map_cons, opsRun, opStep, h.1, Except.map]
      exact ih (by simpa using h.2) (by simpa using hf)

@[simp] theorem sent_nil (n : Nat) : sent n [] = [] := rfl

theorem sent_cons (n : Nat) (b : Byte) (bs : List Byte) :
    sent n (b :: bs) = (b, Config.freeByte n) :: sent (n + 1) bs := by
  have h : ∀ k, (bs.zipIdx (k + 1)).map (fun x : Byte × Nat => (x.1, Config.freeByte (n + x.2)))
      = (bs.zipIdx k).map (fun x : Byte × Nat => (x.1, Config.freeByte (n + 1 + x.2))) := by
    induction bs with
    | nil => intro k; rfl
    | cons b bs ih =>
      intro k
      simp only [List.zipIdx_cons, List.map_cons, ih]
      rw [show n + (k + 1) = n + 1 + k by omega]
  simp only [sent, List.zipIdx_cons, List.map_cons]
  rw [h 0]
  rfl

@[simp] theorem sent_length (n : Nat) (bs : List Byte) : (sent n bs).length = bs.length := by simp [sent]

@[simp] theorem received_length (bs : List Byte) : (received bs).length = bs.length := by simp [received]

/-! ### Opening and closing a frame -/

/-- No settling is owed, and the radio is known and between frames. -/
structure State.Still (s : State) : Prop where
  settle : s.settleCnt = 0
  between : s.radio.inFrame = false
  known : s.radio.radioUnknown = false

/-- The radio inside a frame with the decoded command `fc`, `n` data bytes counted and the payload bytes `l` gathered (R47). -/
def Radio.within (r : Radio) (fc : FrameCmd) (n : Nat) (l : List Byte) : Radio :=
  { r with inFrame := true, fcmd := fc, fidx := n, facc := l }

@[simp] theorem Radio.within_inFrame (r : Radio) (fc n l) : (r.within fc n l).inFrame = true := rfl
@[simp] theorem Radio.within_fcmd (r : Radio) (fc n l) : (r.within fc n l).fcmd = fc := rfl
@[simp] theorem Radio.within_fidx (r : Radio) (fc n l) : (r.within fc n l).fidx = n := rfl
@[simp] theorem Radio.within_facc (r : Radio) (fc n l) : (r.within fc n l).facc = l := rfl
@[simp] theorem Radio.within_known (r : Radio) (fc n l) : (r.within fc n l).radioUnknown = r.radioUnknown := rfl
@[simp] theorem Radio.within_rxq (r : Radio) (fc n l) : (r.within fc n l).rxq = r.rxq := rfl
@[simp] theorem Radio.within_txq (r : Radio) (fc n l) : (r.within fc n l).txq = r.txq := rfl
@[simp] theorem Radio.within_reg1 (r : Radio) (fc n l) : (r.within fc n l).reg1 = r.reg1 := rfl
@[simp] theorem Radio.within_reg5 (r : Radio) (fc n l) : (r.within fc n l).reg5 = r.reg5 := rfl
@[simp] theorem Radio.within_within (r : Radio) (fc n l fc' n' l') : (r.within fc n l).within fc' n' l' = r.within fc' n' l' := rfl
@[simp] theorem Radio.within_closed (r : Radio) (fc n l n' l') : (r.within fc n l).closed n' l' = r.closed n' l' := rfl
@[simp] theorem statusValue_within (p : Params) (r : Radio) (fc n l) : statusValue p (r.within fc n l) = statusValue p r := rfl
@[simp] theorem statusValue_closed (p : Params) (r : Radio) (n l) : statusValue p (r.closed n l) = statusValue p r := rfl
@[simp] theorem Radio.closed_inFrame (r : Radio) (n l) : (r.closed n l).inFrame = false := rfl
@[simp] theorem Radio.closed_fcmd (r : Radio) (n l) : (r.closed n l).fcmd = .none := rfl
@[simp] theorem Radio.closed_known (r : Radio) (n l) : (r.closed n l).radioUnknown = r.radioUnknown := rfl
@[simp] theorem Radio.closed_reg1 (r : Radio) (n l) : (r.closed n l).reg1 = r.reg1 := rfl
@[simp] theorem Radio.closed_reg5 (r : Radio) (n l) : (r.closed n l).reg5 = r.reg5 := rfl
@[simp] theorem Radio.closed_txq (r : Radio) (n l) : (r.closed n l).txq = r.txq := rfl
@[simp] theorem Radio.closed_rxq (r : Radio) (n l) : (r.closed n l).rxq = r.rxq := rfl
@[simp] theorem Radio.closed_closed (r : Radio) (n l n' l') : (r.closed n l).closed n' l' = r.closed n' l' := rfl
@[simp] theorem Radio.readAt_within (p : Params) (r : Radio) (fc n l a k) : (r.within fc n l).readAt p a k = r.readAt p a k := rfl
@[simp] theorem Radio.readAt_closed (p : Params) (r : Radio) (n l a k) : (r.closed n l).readAt p a k = r.readAt p a k := rfl

/-- `s` after an exchange of `m` that leaves the radio as `r`. -/
def State.exchanged (s : State) (m : Byte) (r : Radio) : State :=
  { s with radio := r, trace := .xfer m s.misoByte :: s.trace, draws := s.draws + 1 }

/-- `s` after the release of chip-select with its settling, the radio left as `r`. -/
def State.released (s : State) (r : Radio) : State :=
  { s with csN := true, radio := r, trace := settleTrace s.cfg ++ .cs true :: s.trace, draws := s.draws + 1 }

/-- `s` after the opening of a frame and its command byte `c`, which the radio decodes to `fc`. -/
def State.opened (s : State) (c : Byte) (fc : FrameCmd) : State :=
  { s with
    csN := false
    lstat := statusValue s.cfg s.radio
    radio := s.radio.within fc 0 []
    trace := .xfer c (statusValue s.cfg s.radio) :: (settleTrace s.cfg ++ .cs false :: s.trace)
    draws := s.draws + 2 }

/-- Chip-select low, its settling, the command byte (R130, R145, R146). -/
theorem opsRun_open {s : State} (h : s.Still) {c : Byte} {i : Instr} {fc : FrameCmd} (hc : decodeSpi c = .ok i)
    (hfc : frameCmdOf i = fc) (k : List MicroOp) :
    opsRun (.driveCS false :: .cmd c :: k) s = opsRun k (s.opened c fc) := by
  subst hfc
  obtain ⟨h0, hb, hk⟩ := h
  simp only [opsRun, opStep]
  refine congrArg (opsRun k) ?_
  apply State.ext <;>
    simp [settled, State.misoByte, State.react, Radio.onXfer, Radio.onCommand, Radio.miso, hk, hc, h0,
      Radio.onCS, hb, State.opened, settleTrace, statusValue, Radio.within]

/-- One exchange of a radio that is known before and after it. -/
theorem xfer_known {s : State} {m : Byte} {r : Radio} (hk : s.radio.radioUnknown = false)
    (hr : s.radio.onXfer s.cfg m = r) (hu : r.radioUnknown = false) : xfer m s = s.exchanged m r := by
  subst hr
  simp [xfer, State.react, hk, hu, State.exchanged]

/-- The end of a frame of a known radio (R151). -/
theorem close_known {s : State} {r : Radio} (h0 : s.settleCnt = 0) (hk : s.radio.radioUnknown = false)
    (hr : s.radio.onCS true = r) (hu : r.radioUnknown = false) : settled (driveCS true s) = s.released r := by
  subst hr
  apply State.ext <;> simp [settled, State.react, hk, hu, h0, settleTrace, State.released]

/-! ### Register frames -/

theorem Radio.writeAt_within (p : Params) (a : RegAddr) (k : Nat) (m : Byte) (r : Radio) (fc : FrameCmd) (n : Nat)
    (l : List Byte) : (r.within fc n l).writeAt p a k m = (r.writeAt p a k m).within fc n l := by
  unfold Radio.writeAt
  split
  · split <;> rfl
  · split <;> rfl
  · rfl
  · rfl

theorem Radio.writeAt_known (p : Params) {a : RegAddr} (k : Nat) (m : Byte) {r : Radio} (ha : regName a ≠ .unmapped) :
    (r.writeAt p a k m).radioUnknown = r.radioUnknown := by
  unfold Radio.writeAt
  split
  · split <;> rfl
  · split <;> rfl
  · rfl
  · contradiction

@[simp] theorem Radio.onXfer_within_wReg (p : Params) (m : Byte) (r : Radio) (a : RegAddr) (n : Nat) (l : List Byte) :
    (r.within (.wReg a) n l).onXfer p m = (r.writeAt p a n m).within (.wReg a) (n + 1) l := by
  simp only [Radio.onXfer, Radio.within_inFrame, Radio.within_fcmd, Radio.within_fidx, if_true, Radio.writeAt_within]
  rfl

@[simp] theorem Radio.onXfer_within_rReg (p : Params) (m : Byte) (r : Radio) (a : RegAddr) (n : Nat) (l : List Byte) :
    (r.within (.rReg a) n l).onXfer p m = r.within (.rReg a) (n + 1) l := rfl

@[simp] theorem Radio.onXfer_within_wTxPl (p : Params) (m : Byte) (r : Radio) (n : Nat) (l : List Byte) :
    (r.within .wTxPl n l).onXfer p m = r.within .wTxPl (n + 1) (l ++ [m]) := rfl

@[simp] theorem Radio.onXfer_within_rRxPl (p : Params) (m : Byte) (r : Radio) (n : Nat) (l : List Byte) :
    (r.within .rRxPl n l).onXfer p m = r.within .rRxPl (n + 1) l := rfl

@[simp] theorem Radio.onCS_within_wReg (r : Radio) (a : RegAddr) (n : Nat) (l : List Byte) :
    (r.within (.wReg a) n l).onCS true = r.closed n l := by
  simp [Radio.onCS, Radio.within, Radio.closed]

@[simp] theorem Radio.onCS_within_rReg (r : Radio) (a : RegAddr) (n : Nat) (l : List Byte) :
    (r.within (.rReg a) n l).onCS true = r.closed n l := by
  simp [Radio.onCS, Radio.within, Radio.closed]

@[simp] theorem Radio.onCS_within_wTxPl (r : Radio) (n : Nat) (l : List Byte) :
    (r.within .wTxPl n l).onCS true = { r.closed n l with txq := r.txq ++ [l] } := by
  simp [Radio.onCS, Radio.within, Radio.closed]

@[simp] theorem Radio.onCS_within_rRxPl (r : Radio) (n : Nat) (l : List Byte) :
    (r.within .rRxPl n l).onCS true = { r.closed n l with rxq := if 1 ≤ n then r.rxq.tail else r.rxq } := by
  simp [Radio.onCS, Radio.within, Radio.closed]

/-- A frame that writes one byte to a mapped register (R134, R148). -/
theorem opsRun_writeReg {s : State} (h : s.Still) {a : RegAddr} {src : ByteSource} {v : Byte} (ha : regName a ≠ .unmapped)
    (hv : sourceByte src s = .ok v) :
    opsRun (writeRegOps a [src]) s
      = .ok (s.afterFrame (wcmd a) (sent (s.draws + 2) [v]) ((s.radio.writeAt s.cfg a 0 v).closed 1 [])) := by
  have hk := h.known
  have hu : (s.radio.writeAt s.cfg a 0 v).radioUnknown = false := by rw [Radio.writeAt_known _ _ _ ha, hk]
  have hs : sourceByte src (s.opened (wcmd a) (.wReg a)) = .ok v := by rw [← hv]; cases src <;> rfl
  have h1 : xfer v (s.opened (wcmd a) (.wReg a))
      = (s.opened (wcmd a) (.wReg a)).exchanged v ((s.radio.writeAt s.cfg a 0 v).within (.wReg a) 1 []) :=
    xfer_known hk (Radio.onXfer_within_wReg s.cfg v s.radio a 0 []) hu
  have h2 := close_known (s := (s.opened (wcmd a) (.wReg a)).exchanged v ((s.radio.writeAt s.cfg a 0 v).within (.wReg a) 1 []))
    h.settle hu (Radio.onCS_within_wReg _ a 1 []) hu
  simp only [writeRegOps, frameOps, List.map_cons, List.map_nil, List.append_nil, List.cons_append, List.nil_append]
  rw [opsRun_open (fc := .wReg a) h (decodeSpi_wcmd a) rfl]
  simp only [opsRun, opStep, hs, Except.map, h1, h2]
  simp [State.afterFrame, State.opened, State.exchanged, State.released, frameTrace, sent_cons, State.misoByte, Radio.miso,
    hk]

/-- `tmp` takes a byte. -/
def State.withTmp (s : State) (b : Byte) : State := { s with tmp := b }

/-- `tmp` takes the byte of a poll, which is counted. -/
def State.withPoll (s : State) (b : Byte) : State := { s with tmp := b, pollCnt := s.pollCnt + 1 }

theorem readDataByte_tmp (s : State) : readDataByte .tmp s = (xfer readFill s).withTmp s.misoByte := rfl

theorem readDataByte_poll (s : State) : readDataByte .poll s = (xfer readFill s).withPoll s.misoByte := rfl

/-- The byte a register read answers (R147). -/
theorem misoByte_opened_rReg {s : State} (hk : s.radio.radioUnknown = false) (a : RegAddr) :
    (s.opened (rcmd a) (.rReg a)).misoByte = (s.radio.readAt s.cfg a 0).getD (Config.freeByte (s.draws + 2)) := by
  simp [State.misoByte, State.opened, Radio.miso, hk]

/-- A frame that reads one byte of a register to `tmp` (R135, R147). -/
theorem opsRun_readReg {s : State} (h : s.Still) (a : RegAddr) {b : Byte}
    (hb : (s.radio.readAt s.cfg a 0).getD (Config.freeByte (s.draws + 2)) = b) :
    opsRun (readRegOps a .tmp) s = .ok ((s.afterFrame (rcmd a) (received [b]) (s.radio.closed 1 [])).withTmp b) := by
  have hk := h.known
  have hm := (misoByte_opened_rReg hk a).trans hb
  have h1 : xfer readFill (s.opened (rcmd a) (.rReg a))
      = (s.opened (rcmd a) (.rReg a)).exchanged readFill (s.radio.within (.rReg a) 1 []) :=
    xfer_known hk (Radio.onXfer_within_rReg s.cfg readFill s.radio a 0 []) hk
  have h2 := close_known (s := ((s.opened (rcmd a) (.rReg a)).exchanged readFill (s.radio.within (.rReg a) 1 [])).withTmp b)
    h.settle hk (Radio.onCS_within_rReg _ a 1 []) hk
  simp only [readRegOps, frameOps, List.map_cons, List.map_nil, List.cons_append, List.nil_append]
  rw [opsRun_open (fc := .rReg a) h (decodeSpi_rcmd a) rfl]
  simp only [opsRun, opStep, readDataByte_tmp, h1, h2, hm]
  simp only [State.exchanged, hm]
  simp [State.afterFrame, State.opened, State.released, State.withTmp, frameTrace, received, readFill]

/-- A poll frame of a known radio (R234, R239). -/
theorem opsRun_poll {s : State} (h : s.Still) : opsRun (readRegOps 0x07#5 .poll) s = .ok s.polled := by
  have hk := h.known
  have hm : (s.opened (rcmd 0x07#5) (.rReg 0x07#5)).misoByte = statusValue s.cfg s.radio := misoByte_opened_rReg hk 0x07#5
  have h1 : xfer readFill (s.opened (rcmd 0x07#5) (.rReg 0x07#5))
      = (s.opened (rcmd 0x07#5) (.rReg 0x07#5)).exchanged readFill (s.radio.within (.rReg 0x07#5) 1 []) :=
    xfer_known hk (Radio.onXfer_within_rReg s.cfg readFill s.radio 0x07#5 0 []) hk
  have h2 := close_known
    (s := ((s.opened (rcmd 0x07#5) (.rReg 0x07#5)).exchanged readFill (s.radio.within (.rReg 0x07#5) 1 [])).withPoll
      (statusValue s.cfg s.radio))
    h.settle hk (Radio.onCS_within_rReg _ 0x07#5 1 []) hk
  simp only [readRegOps, frameOps, List.map_cons, List.map_nil, List.cons_append, List.nil_append]
  rw [opsRun_open (fc := .rReg 0x07#5) h (decodeSpi_rcmd _) rfl]
  simp only [opsRun, opStep, readDataByte_poll, h1, h2, hm]
  simp only [State.exchanged, hm]
  simp [State.polled, State.afterFrame, State.opened, State.released, State.withPoll, frameTrace, received, readFill, rcmd]

/-! ### Address frames -/

/-- The bytes `bs` sent to a 5-byte register from position `k` on, as stores of a vector. -/
def storeBytes (bs : List Byte) (k : Nat) (v : Vector Byte 5) : Vector Byte 5 :=
  match bs with
  | []      => v
  | b :: bs => storeBytes bs (k + 1) (v.setIfInBounds k b)

/-- Five bytes fill a 5-byte register (R42, R73). -/
theorem storeBytes_five (b0 b1 b2 b3 b4 : Byte) (v : Vector Byte 5) :
    storeBytes [b0, b1, b2, b3, b4] 0 v = #v[b0, b1, b2, b3, b4] := by
  ext i hi
  simp only [storeBytes]
  interval_cases i <;> simp

/-- A known radio takes the bytes `bs` of a write to the 5-byte register `j` (R148). -/
theorem sendAll_five {a : RegAddr} {j : Fin 7} (ha : regName a = .five j) (bs : List Byte) (k : Nat) {s : State} {r : Radio}
    (hk : r.radioUnknown = false) (hr : s.radio = r.within (.wReg a) k []) :
    sendAll bs s =
      { s with
        radio := Radio.within { r with reg5 := r.reg5.set j (storeBytes bs k r.reg5[j]) } (.wReg a) (k + bs.length) []
        trace := ((sent s.draws bs).map (fun x => BusEvent.xfer x.1 x.2)).reverse ++ s.trace
        draws := s.draws + bs.length } := by
  induction bs generalizing s r k with
  | nil => simp [storeBytes, ← hr]
  | cons b bs ih =>
    have hw : s.radio.onXfer s.cfg b
        = Radio.within { r with reg5 := r.reg5.set j (r.reg5[j].setIfInBounds k b) } (.wReg a) (k + 1) [] := by
      rw [hr, Radio.onXfer_within_wReg, Radio.writeAt, ha]
    have h1 := xfer_known (s := s) (m := b) (by rw [hr]; exact hk) hw hk
    have hm : s.misoByte = Config.freeByte s.draws := by simp [State.misoByte, hr, Radio.miso]
    rw [sendAll_cons, h1, ih (k + 1) (r := { r with reg5 := r.reg5.set j (r.reg5[j].setIfInBounds k b) }) hk rfl]
    apply State.ext <;>
      simp [State.exchanged, sent_cons, hm, storeBytes, Nat.add_assoc, Nat.add_comm 1]

/-- A frame that writes five bytes to a 5-byte register (R134, R191, R192). -/
theorem opsRun_writeAddr {s : State} (h : s.Still) {a : RegAddr} {j : Fin 7} (ha : regName a = .five j)
    {srcs : List ByteSource} {b0 b1 b2 b3 b4 : Byte}
    (hb : srcs.map (fun src => sourceByte src s) = [b0, b1, b2, b3, b4].map .ok) :
    opsRun (writeRegOps a srcs) s
      = .ok (s.afterFrame (wcmd a) (sent (s.draws + 2) [b0, b1, b2, b3, b4])
          (Radio.closed { s.radio with reg5 := s.radio.reg5.set j #v[b0, b1, b2, b3, b4] } 5 [])) := by
  have hk := h.known
  have hs : srcs.map (fun src => sourceByte src (s.opened (wcmd a) (.wReg a))) = [b0, b1, b2, b3, b4].map .ok := by
    rw [← hb]; exact List.map_congr_left (fun src _ => by cases src <;> rfl)
  have h1 := sendAll_five ha [b0, b1, b2, b3, b4] 0 (s := s.opened (wcmd a) (.wReg a)) (r := s.radio) hk rfl
  rw [storeBytes_five] at h1
  have h2 := close_known (s := sendAll [b0, b1, b2, b3, b4] (s.opened (wcmd a) (.wReg a)))
    (r := Radio.closed { s.radio with reg5 := s.radio.reg5.set j #v[b0, b1, b2, b3, b4] } 5 [])
    (by rw [h1]; exact h.settle) (by rw [h1]; exact hk) (by rw [h1]; exact Radio.onCS_within_wReg _ a _ []) hk
  simp only [writeRegOps, frameOps, List.map_nil, List.append_nil]
  rw [opsRun_open (fc := .wReg a) h (decodeSpi_wcmd a) rfl, opsRun_append, opsRun_outs hs]
  simp only [opsRun, opStep, h2]
  rw [h1]
  refine congrArg Except.ok ?_
  apply State.ext <;> simp [State.afterFrame, State.opened, State.released, frameTrace, sent_cons]

/-! ### Payload frames -/

/-- A known radio gathers and counts the bytes `bs` of a payload (R47, R149). -/
theorem sendAll_txPayload (bs : List Byte) {s : State} {r : Radio} {n : Nat} {l : List Byte} (hk : r.radioUnknown = false)
    (hr : s.radio = r.within .wTxPl n l) :
    sendAll bs s =
      { s with
        radio := r.within .wTxPl (n + bs.length) (l ++ bs)
        trace := ((sent s.draws bs).map (fun x => BusEvent.xfer x.1 x.2)).reverse ++ s.trace
        draws := s.draws + bs.length } := by
  induction bs generalizing s n l with
  | nil => simp [← hr]
  | cons b bs ih =>
    have h1 := xfer_known (s := s) (m := b) (r := r.within .wTxPl (n + 1) (l ++ [b])) (by rw [hr]; exact hk)
      (by rw [hr]; exact Radio.onXfer_within_wTxPl s.cfg b r n l) hk
    have hm : s.misoByte = Config.freeByte s.draws := by simp [State.misoByte, hr, Radio.miso]
    rw [sendAll_cons, h1, ih (n := n + 1) (l := l ++ [b]) rfl]
    apply State.ext <;> simp [State.exchanged, sent_cons, hm, Nat.add_assoc, Nat.add_comm 1]

/-- A frame that pushes the payload `bs` (R232, R149, R151). -/
theorem opsRun_txPayload {s : State} (h : s.Still) {srcs : List ByteSource} {bs : List Byte}
    (hb : srcs.map (fun src => sourceByte src s) = bs.map .ok) :
    opsRun (frameOps 0xA0#8 srcs []) s
      = .ok (s.afterFrame 0xA0#8 (sent (s.draws + 2) bs)
          { s.radio.closed bs.length bs with txq := s.radio.txq ++ [bs] }) := by
  have hk := h.known
  have hs : srcs.map (fun src => sourceByte src (s.opened 0xA0#8 .wTxPl)) = bs.map .ok := by
    rw [← hb]; exact List.map_congr_left (fun src _ => by cases src <;> rfl)
  have h1 := sendAll_txPayload bs (s := s.opened 0xA0#8 .wTxPl) (r := s.radio) (n := 0) (l := []) hk rfl
  rw [List.nil_append, Nat.zero_add] at h1
  have h2 := close_known (s := sendAll bs (s.opened 0xA0#8 .wTxPl))
    (r := { s.radio.closed bs.length bs with txq := s.radio.txq ++ [bs] })
    (by rw [h1]; exact h.settle) (by rw [h1]; exact hk) (by rw [h1]; exact Radio.onCS_within_wTxPl _ _ _) hk
  simp only [frameOps, List.map_nil, List.append_nil]
  rw [opsRun_open (fc := .wTxPl) h decodeSpi_txPayload rfl, opsRun_append, opsRun_outs hs]
  simp only [opsRun, opStep, h2]
  rw [h1]
  refine congrArg Except.ok ?_
  apply State.ext <;> simp [State.afterFrame, State.opened, State.released, frameTrace]
  omega

/-- The bytes a payload read of `n` bytes gets from the head payload `head`, from position `k` on, the first with draw number
`d`: the payload's own, then free bytes (R150). -/
def payloadBytes (head : List Byte) (d k n : Nat) : List Byte :=
  match n with
  | 0     => []
  | n + 1 => (head[k]?).getD (Config.freeByte d) :: payloadBytes head (d + 1) (k + 1) n

@[simp] theorem payloadBytes_length (head : List Byte) (d k n : Nat) : (payloadBytes head d k n).length = n := by
  induction n generalizing d k with
  | zero => rfl
  | succ n ih => simp [payloadBytes, ih]

/-- The latch with the bytes `bs` stored from position `k` on. -/
def storeLatch (bs : List Byte) (k : Nat) (l : List (Option Byte)) : List (Option Byte) :=
  match bs with
  | []      => l
  | b :: bs => storeLatch bs (k + 1) (l.set k (some b))

theorem storeLatch_eq (bs : List Byte) (k : Nat) (l : List (Option Byte)) (h : k + bs.length ≤ l.length) :
    storeLatch bs k l = l.take k ++ bs.map some ++ l.drop (k + bs.length) := by
  induction bs generalizing k l with
  | nil => simp [storeLatch]
  | cons b bs ih =>
    simp only [List.length_cons] at h
    rw [storeLatch, ih (k + 1) (l.set k (some b)) (by simpa using by omega)]
    rw [List.take_set, List.drop_set_of_lt (by omega)]
    have : (l.take (k + 1)).set k (some b) = l.take k ++ [some b] := by
      rw [List.take_succ_eq_append_getElem (by omega), List.set_append_right _ _ (by simp)]
      simp [Nat.min_eq_left (show k ≤ l.length by omega)]
    rw [this]
    simp [Nat.add_assoc, Nat.add_comm 1]

/-- `s` after `n` reads of a payload from position `k` on by a radio that is `r` within its frame. -/
def State.pulled (s : State) (r : Radio) (k n : Nat) : State :=
  { s with
    radio := r.within .rRxPl (k + n) []
    rxb := storeLatch (payloadBytes (r.rxq.headD []) s.draws k n) k s.rxb
    trace := ((received (payloadBytes (r.rxq.headD []) s.draws k n)).map (fun x => BusEvent.xfer x.1 x.2)).reverse ++ s.trace
    draws := s.draws + n }

/-- A known radio answers `n` reads of a payload from position `k` on, which land in RXB from position `k` on (R150, R261). -/
theorem opsRun_reads_rxPayload (n k : Nat) {s : State} {r : Radio} (hk : r.radioUnknown = false)
    (hr : s.radio = r.within .rRxPl k []) :
    opsRun ((List.range' k n).map (fun i => MicroOp.read (.rxb i))) s = .ok (s.pulled r k n) := by
  induction n generalizing s k with
  | zero => simp [State.pulled, storeLatch, payloadBytes, received, ← hr]
  | succ n ih =>
    have h1 := xfer_known (s := s) (m := readFill) (r := r.within .rRxPl (k + 1) []) (by rw [hr]; exact hk)
      (by rw [hr]; exact Radio.onXfer_within_rRxPl s.cfg readFill r k []) hk
    have hm : s.misoByte = ((r.rxq.headD [])[k]?).getD (Config.freeByte s.draws) := by
      simp [State.misoByte, hr, Radio.miso, hk]
    simp only [List.range'_succ, List.map_cons, opsRun, opStep, readDataByte, h1]
    rw [ih (k + 1) rfl]
    refine congrArg Except.ok ?_
    apply State.ext <;>
      simp [State.pulled, State.exchanged, hm, payloadBytes, storeLatch, received, readFill, Nat.add_assoc, Nat.add_comm 1]

/-- A frame that reads `n` bytes of the head payload into RXB (R261, R150, R151). -/
theorem opsRun_rxPayload {s : State} (h : s.Still) (n : Nat) :
    opsRun (frameOps 0x61#8 [] ((List.range n).map .rxb)) s
      = .ok
          { s.afterFrame 0x61#8 (received (payloadBytes (s.radio.rxq.headD []) (s.draws + 2) 0 n))
              { s.radio.closed n [] with rxq := if 1 ≤ n then s.radio.rxq.tail else s.radio.rxq } with
            rxb := storeLatch (payloadBytes (s.radio.rxq.headD []) (s.draws + 2) 0 n) 0 s.rxb } := by
  have hk := h.known
  have h1 := opsRun_reads_rxPayload n 0 (s := s.opened 0x61#8 .rRxPl) (r := s.radio) hk rfl
  simp only [frameOps, List.map_nil, List.nil_append, List.map_map]
  rw [opsRun_open (fc := .rRxPl) h decodeSpi_rxPayload rfl, opsRun_append, List.range_eq_range']
  simp only [Function.comp_def, h1]
  simp only [opsRun, opStep]
  have h2 := close_known (s := (s.opened 0x61#8 .rRxPl).pulled s.radio 0 n)
    (r := { s.radio.closed n [] with rxq := if 1 ≤ n then s.radio.rxq.tail else s.radio.rxq })
    h.settle hk ((Radio.onCS_within_rRxPl s.radio (0 + n) []).trans (by rw [Nat.zero_add])) hk
  rw [h2]
  refine congrArg Except.ok ?_
  apply State.ext <;> simp [State.pulled, State.afterFrame, State.opened, State.released, frameTrace]
  omega

/-! ### Chip-enable -/

theorem Radio.onCE_known (l : Bool) (r : Radio) : (r.onCE l).radioUnknown = r.radioUnknown := by
  cases l <;> rfl

/-- A drive of chip-enable with its settling (R211, R240). -/
theorem opsRun_driveCE {s : State} (h0 : s.settleCnt = 0) (hk : s.radio.radioUnknown = false) (l : Bool) (k : List MicroOp) :
    opsRun (.driveCE l :: k) s = opsRun k (s.afterCE l) := by
  have hu := Radio.onCE_known l s.radio
  simp only [opsRun, opStep]
  refine congrArg (opsRun k) ?_
  apply State.ext <;> simp [settled, driveCE, State.react, State.afterCE, ceTrace, settleTrace, h0, hk, hu]

/-! ### What stays still -/

theorem State.Still.afterFrame {s : State} (h : s.Still) {c : Byte} {xs : List (Byte × Byte)} {r : Radio}
    (hb : r.inFrame = false) (hk : r.radioUnknown = false) : (s.afterFrame c xs r).Still := ⟨h.settle, hb, hk⟩

theorem State.Still.afterCE {s : State} (h : s.Still) (l : Bool) : (s.afterCE l).Still :=
  ⟨h.settle, by cases l <;> exact h.between, (Radio.onCE_known l s.radio).trans h.known⟩

end Sys2Proof.Machine
end

