-- ==== Sys2Proof/Laws/Commands.lean ====
section
/-! SUPPORT. What the host commands are made of: the names of register addresses, what a write and a read do under each, the
cost of frames, and the state an accepted command starts from. -/

namespace Sys2Proof.Machine

/-! ### Register names (R72) -/

theorem regName_one {a : RegAddr} {i : Fin 7} (h : a.toNat = i.val) : regName a = .one i := by
  unfold regName
  rw [dif_pos (by omega)]
  exact congrArg RegName.one (Fin.ext h)

theorem regName_five {a : RegAddr} {j : Fin 7} (h : a.toNat = 0x0A + j.val) : regName a = .five j := by
  unfold regName
  rw [dif_neg (by omega), if_neg (by omega), dif_pos (by omega)]
  exact congrArg RegName.five (Fin.ext (by simp [h]))

@[simp] theorem regName_status : regName 0x07#5 = .status := by decide

theorem regName_unmapped {a : RegAddr} : (a = 0x08#5 ∨ a = 0x09#5 ∨ 0x11#5 ≤ a) → regName a = .unmapped := by
  revert a; decide

/-- Every address is of one of the four kinds (R72). -/
theorem regName_cases (a : RegAddr) :
    (∃ i : Fin 7, a.toNat = i.val) ∨ a = 0x07#5 ∨ (∃ j : Fin 7, a.toNat = 0x0A + j.val)
      ∨ (a = 0x08#5 ∨ a = 0x09#5 ∨ 0x11#5 ≤ a) := by
  revert a; decide

/-! ### Writes and reads by kind of register -/

theorem Radio.writeAt_one (p : Params) {a : RegAddr} {i : Fin 7} (h : regName a = .one i) (v : Byte) (r : Radio) :
    r.writeAt p a 0 v = { r with reg1 := r.reg1.set i (radioStore p a v) } := by
  simp [Radio.writeAt, h]

theorem Radio.writeAt_five (p : Params) {a : RegAddr} {j : Fin 7} (h : regName a = .five j) (v : Byte) (r : Radio) :
    r.writeAt p a 0 v = { r with reg5 := r.reg5.set j (r.reg5[j].set 0 v) } := by
  have e : ∀ l : Vector Byte 5, l.setIfInBounds 0 v = l.set 0 v := by
    intro l; ext i hi; simp [Vector.getElem_set, Vector.getElem_setIfInBounds]
  simp [Radio.writeAt, h, e]

theorem and_not_hasFlag (m v : Byte) (f : Bool) : (f && !hasFlag m v) = if v &&& m ≠ 0#8 then false else f := by
  unfold hasFlag
  by_cases h : v &&& m = 0#8 <;> simp [h]

theorem Radio.writeAt_status (p : Params) (v : Byte) (r : Radio) :
    r.writeAt p 0x07#5 0 v =
      { r with
        fTxDs := if v &&& txDsMask p ≠ 0#8 then false else r.fTxDs
        fMaxRt := if v &&& maxRtMask p ≠ 0#8 then false else r.fMaxRt
        fRxDr := if v &&& rxDrMask p ≠ 0#8 then false else r.fRxDr } := by
  simp only [Radio.writeAt, regName_status, if_true, w1c, and_not_hasFlag]

theorem txDsMask_and_txDsMask (p : Params) : txDsMask p &&& txDsMask p ≠ 0#8 := by
  unfold txDsMask; cases p.flags <;> decide
theorem txDsMask_and_maxRtMask (p : Params) : txDsMask p &&& maxRtMask p = 0#8 := by
  unfold txDsMask maxRtMask; cases p.flags <;> decide
theorem txDsMask_and_rxDrMask (p : Params) : txDsMask p &&& rxDrMask p = 0#8 := by
  unfold txDsMask rxDrMask; cases p.flags <;> decide
theorem maxRtMask_and_txDsMask (p : Params) : maxRtMask p &&& txDsMask p = 0#8 := by
  unfold txDsMask maxRtMask; cases p.flags <;> decide
theorem maxRtMask_and_maxRtMask (p : Params) : maxRtMask p &&& maxRtMask p ≠ 0#8 := by
  unfold maxRtMask; cases p.flags <;> decide
theorem maxRtMask_and_rxDrMask (p : Params) : maxRtMask p &&& rxDrMask p = 0#8 := by
  unfold maxRtMask rxDrMask; cases p.flags <;> decide
theorem rxDrMask_and_txDsMask (p : Params) : rxDrMask p &&& txDsMask p = 0#8 := by
  unfold txDsMask rxDrMask; cases p.flags <;> decide
theorem rxDrMask_and_maxRtMask (p : Params) : rxDrMask p &&& maxRtMask p = 0#8 := by
  unfold maxRtMask rxDrMask; cases p.flags <;> decide
theorem rxDrMask_and_rxDrMask (p : Params) : rxDrMask p &&& rxDrMask p ≠ 0#8 := by
  unfold rxDrMask; cases p.flags <;> decide

/-- The engine's test for a flag in a status byte the radio read out is that flag (R46, R235, R260). -/
theorem hasFlag_txDs (p : Params) (r : Radio) : hasFlag (txDsMask p) (statusValue p r) = r.fTxDs := by
  unfold hasFlag statusValue txDsMask maxRtMask rxDrMask
  cases p.flags <;> cases r.fTxDs <;> cases r.fMaxRt <;> cases r.fRxDr <;> decide

theorem hasFlag_maxRt (p : Params) (r : Radio) : hasFlag (maxRtMask p) (statusValue p r) = r.fMaxRt := by
  unfold hasFlag statusValue txDsMask maxRtMask rxDrMask
  cases p.flags <;> cases r.fTxDs <;> cases r.fMaxRt <;> cases r.fRxDr <;> decide

theorem hasFlag_rxDr (p : Params) (r : Radio) : hasFlag (rxDrMask p) (statusValue p r) = r.fRxDr := by
  unfold hasFlag statusValue txDsMask maxRtMask rxDrMask
  cases p.flags <;> cases r.fTxDs <;> cases r.fMaxRt <;> cases r.fRxDr <;> decide

/-- What a read of position 0 answers, by kind of register (R147). -/
theorem Radio.readAt_zero (p : Params) (r : Radio) (a : RegAddr) (d b : Byte)
    (h : (∃ i : Fin 7, a.toNat = i.val ∧ b = r.reg1[i]) ∨ (a = 0x07#5 ∧ b = statusValue p r)
      ∨ (∃ j : Fin 7, a.toNat = 0x0A + j.val ∧ b = r.reg5[j][0])
      ∨ ((a = 0x08#5 ∨ a = 0x09#5 ∨ 0x11#5 ≤ a) ∧ b = d)) :
    (r.readAt p a 0).getD d = b := by
  rcases h with ⟨i, hi, rfl⟩ | ⟨rfl, rfl⟩ | ⟨j, hj, rfl⟩ | ⟨ha, rfl⟩
  · simp [Radio.readAt, regName_one hi]
  · simp [Radio.readAt]
  · simp [Radio.readAt, regName_five hj]
  · simp [Radio.readAt, regName_unmapped ha]

/-! ### Frames as event primitives -/

@[simp] theorem opsCost_outs (p : Params) (l : List ByteSource) : opsCost p (l.map .out) = l.length := by
  induction l with
  | nil => rfl
  | cons a l ih => simp [opCost, ih, Nat.add_comm]

@[simp] theorem opsCost_reads (p : Params) (l : List ByteDest) : opsCost p (l.map .read) = l.length := by
  induction l with
  | nil => rfl
  | cons a l ih => simp [opCost, ih, Nat.add_comm]

@[simp] theorem opsCost_frameOps (p : Params) (c : Byte) (outs : List ByteSource) (dsts : List ByteDest) :
    opsCost p (frameOps c outs dsts) = 3 + 2 * p.settleTicks + outs.length + dsts.length := by
  simp [frameOps, opCost]
  omega

@[simp] theorem opsCost_writeRegOps (p : Params) (a : RegAddr) (outs : List ByteSource) :
    opsCost p (writeRegOps a outs) = 3 + 2 * p.settleTicks + outs.length := by
  simp [writeRegOps]

@[simp] theorem opsCost_readRegOps (p : Params) (a : RegAddr) (dst : ByteDest) :
    opsCost p (readRegOps a dst) = 4 + 2 * p.settleTicks := by
  simp [readRegOps]
  omega

@[simp] theorem isEvent_frameOps (c : Byte) (outs : List ByteSource) (dsts : List ByteDest) :
    (frameOps c outs dsts).all MicroOp.isEvent = true := by
  simp [frameOps, MicroOp.isEvent]

@[simp] theorem isEvent_writeRegOps (a : RegAddr) (outs : List ByteSource) :
    (writeRegOps a outs).all MicroOp.isEvent = true := isEvent_frameOps _ _ _

@[simp] theorem isEvent_readRegOps (a : RegAddr) (dst : ByteDest) :
    (readRegOps a dst).all MicroOp.isEvent = true := isEvent_frameOps _ _ _

/-! ### The accepted command -/

theorem State.Still.ofReady {s : State} (h : s.Ready) (w : Word) (k : List MicroOp) : (accept w k s).Still :=
  ⟨h.2.1, h.2.2.1, h.2.2.2.1⟩

/-- Frames one after the other. -/
theorem opsRun_then {l k : List MicroOp} {s t : State} {r : Except Fault State} (h : opsRun l s = .ok t)
    (hk : opsRun k t = r) : opsRun (l ++ k) s = r := by
  rw [opsRun_append, h]
  exact hk

/-- A frame that has read a register leaves the machine still, and `tmp` holds the byte. -/
theorem State.Still.afterRead {s : State} (h : s.Still) (c b : Byte) (xs : List (Byte × Byte)) (n : Nat) (l : List Byte) :
    ((s.afterFrame c xs (s.radio.closed n l)).withTmp b).Still := ⟨h.settle, rfl, h.known⟩

/-- A host command on a Ready machine whose event primitives all have their bytes: what they leave, ended. -/
theorem hostCommand_ready {s t : State} {w : Word} {ops : List MicroOp} {e : Ending} (h : s.Ready)
    (hops : ops.all MicroOp.isEvent = true) (hc : opsCost s.cfg ops + 1 ≤ commandBound s.cfg)
    (hr : opsRun ops (accept w [] s) = .ok t) : hostCommand w (ops ++ [.finish e]) s = .next (endStep e t) := by
  rw [hostCommand_quiet w ops e h.1 h.2.2.2.2 h.2.1 hops hc, hr]

/-- An error ending on an IDLE machine with no settling left (R280). -/
theorem hostCommand_error {s : State} (w : Word) (code : ResultCode) (hi : s.phase = .idle) (h0 : s.settleCnt = 0)
    (he : s.env = []) : hostCommand w [.finish (.error code)] s = .next (s.finished w code false) := by
  have h := hostCommand_quiet w [] (.error code) hi he h0 rfl (by simp [commandBound]; omega)
  exact h

end Sys2Proof.Machine
end

