-- ==== Sys2Proof/Laws/Encoding.lean ====
section
/-! SUPPORT. The fields of a host word built from its parts (30_encoding R110). -/

namespace Sys2Proof

theorem opOf_hostWord (op : BitVec 4) (a : RegAddr) (v : Byte) : opOf (hostWord op a v) = op := by
  apply BitVec.eq_of_getElem_eq
  intro i hi
  simp only [opOf, hostWord, BitVec.getElem_extractLsb', BitVec.getLsbD_or]
  interval_cases i <;> simp

theorem aOf_hostWord (op : BitVec 4) (a : RegAddr) (v : Byte) : aOf (hostWord op a v) = a := by
  apply BitVec.eq_of_getElem_eq
  intro i hi
  simp only [aOf, hostWord, BitVec.getElem_extractLsb', BitVec.getLsbD_or]
  interval_cases i <;> simp

theorem vOf_hostWord (op : BitVec 4) (a : RegAddr) (v : Byte) : vOf (hostWord op a v) = v := by
  apply BitVec.eq_of_getElem_eq
  intro i hi
  simp only [vOf, hostWord, BitVec.getElem_extractLsb', BitVec.getLsbD_or]
  interval_cases i <;> simp

/-- A mask is taken of each part on its own. -/
theorem hostWord_and (m : Word) (op : BitVec 4) (a : RegAddr) (v : Byte) :
    hostWord op a v &&& m = (v.setWidth 32 <<< 16 &&& m) ||| (a.setWidth 32 <<< 8 &&& m) ||| (op.setWidth 32 &&& m) := by
  apply BitVec.eq_of_getElem_eq
  intro i hi
  simp only [hostWord, BitVec.getElem_and, BitVec.getElem_or, Bool.and_or_distrib_right]

end Sys2Proof
end

