-- ==== Sys2Proof/Laws/PerInstr.lean ====
section
/-! SUPPORT. One statement per instruction about its encoding: the width of its format, and the match and mask of its row
of the opcode table (30_encoding R101-R104, R112). -/

namespace Sys2Proof.Laws.Shape

/-- The match, the mask and the number of bits the opcode table gives the row of an instruction. -/
def row : Instr → Nat × Nat × Nat
  | .rRegister _       => (0x00, 0xE0, 8)
  | .wRegister _       => (0x20, 0xE0, 8)
  | .wTxPayload        => (0xA0, 0xFF, 8)
  | .rRxPayload        => (0x61, 0xFF, 8)
  | .writeReg _ _      => (0x00000000, 0xFF00E0FF, 32)
  | .readReg _         => (0x00000001, 0xFFFFE0FF, 32)
  | .beginRadio        => (0x00000002, 0xFFFFFFFF, 32)
  | .setChannel _      => (0x00000003, 0xFF00FFFF, 32)
  | .setPaLevel _      => (0x00000004, 0xFF00FFFF, 32)
  | .openWritingPipe   => (0x00000005, 0xFFFFFFFF, 32)
  | .openReadingPipe _ => (0x00000006, 0xFF00FFFF, 32)
  | .startListening    => (0x00000007, 0xFFFFFFFF, 32)
  | .stopListening     => (0x00000008, 0xFFFFFFFF, 32)
  | .writePayload _    => (0x00000009, 0xFF00FFFF, 32)
  | .available         => (0x0000000A, 0xFFFFFFFF, 32)
  | .readPayload _     => (0x0000000B, 0xFF00FFFF, 32)

/-- The encoding of `i` has the width of its row's format, and its row's match under its row's mask. -/
def Statement (i : Instr) : Prop :=
  (encode i).nbits = (row i).2.2 ∧ (encode i).bits &&& (row i).2.1 = (row i).1

/-- Under a mask that takes nothing of A and V, a host word with no operand outside it is its op code. -/
theorem hostWord_masked (op : BitVec 4) (a : RegAddr) (v : Byte) (m : Word) (ha : a.setWidth 32 <<< 8 &&& m = 0#32)
    (hv : v.setWidth 32 <<< 16 &&& m = 0#32) (ho : m &&& 0xF#32 = 0xF#32) : hostWord op a v &&& m = op.setWidth 32 := by
  have h2 : op.setWidth 32 &&& m = op.setWidth 32 := by
    have h3 : op.setWidth 32 = op.setWidth 32 &&& 0xF#32 := by revert op; decide
    rw [h3, BitVec.and_assoc, BitVec.and_comm _ m, ho]
  rw [hostWord_and, ha, hv, h2]; simp

theorem bits_of (w m p : Word) (h : w &&& m = p) : w.toNat &&& m.toNat = p.toNat := by
  rw [← BitVec.toNat_and, h]

theorem addr_masked (a : RegAddr) : a.setWidth 32 <<< 8 &&& 0xFF00E0FF#32 = 0#32 ∧ a.setWidth 32 <<< 8 &&& 0xFFFFE0FF#32 = 0#32 := by
  revert a; decide

theorem value_masked (v : Byte) : v.setWidth 32 <<< 16 &&& 0xFF00E0FF#32 = 0#32 ∧ v.setWidth 32 <<< 16 &&& 0xFF00FFFF#32 = 0#32 := by
  revert v; decide

theorem rRegister (a : RegAddr) : Statement (.rRegister a) := by revert a; unfold Statement; decide
theorem wRegister (a : RegAddr) : Statement (.wRegister a) := by revert a; unfold Statement; decide
theorem wTxPayload : Statement .wTxPayload := by unfold Statement; decide
theorem rRxPayload : Statement .rRxPayload := by unfold Statement; decide
theorem writeReg (a : RegAddr) (v : Byte) : Statement (.writeReg a v) :=
  ⟨rfl, bits_of _ 0xFF00E0FF#32 0#32 (hostWord_masked 0x0#4 a v _ (addr_masked a).1 (value_masked v).1 (by decide))⟩
theorem readReg (a : RegAddr) : Statement (.readReg a) :=
  ⟨rfl, bits_of _ 0xFFFFE0FF#32 1#32 (hostWord_masked 0x1#4 a 0#8 _ (addr_masked a).2 (by decide) (by decide))⟩
theorem beginRadio : Statement .beginRadio := by unfold Statement; decide
theorem setChannel (channel : Byte) : Statement (.setChannel channel) :=
  ⟨rfl, bits_of _ 0xFF00FFFF#32 3#32 (hostWord_masked 0x3#4 0#5 channel _ (by decide) (value_masked _).2 (by decide))⟩
theorem setPaLevel (level : Byte) : Statement (.setPaLevel level) :=
  ⟨rfl, bits_of _ 0xFF00FFFF#32 4#32 (hostWord_masked 0x4#4 0#5 level _ (by decide) (value_masked _).2 (by decide))⟩
theorem openWritingPipe : Statement .openWritingPipe := by unfold Statement; decide
theorem openReadingPipe (pipe : Byte) : Statement (.openReadingPipe pipe) :=
  ⟨rfl, bits_of _ 0xFF00FFFF#32 6#32 (hostWord_masked 0x6#4 0#5 pipe _ (by decide) (value_masked _).2 (by decide))⟩
theorem startListening : Statement .startListening := by unfold Statement; decide
theorem stopListening : Statement .stopListening := by unfold Statement; decide
theorem writePayload (len : Byte) : Statement (.writePayload len) :=
  ⟨rfl, bits_of _ 0xFF00FFFF#32 9#32 (hostWord_masked 0x9#4 0#5 len _ (by decide) (value_masked _).2 (by decide))⟩
theorem available : Statement .available := by unfold Statement; decide
theorem readPayload (len : Byte) : Statement (.readPayload len) :=
  ⟨rfl, bits_of _ 0xFF00FFFF#32 0xB#32 (hostWord_masked 0xB#4 0#5 len _ (by decide) (value_masked _).2 (by decide))⟩

end Sys2Proof.Laws.Shape
end

