-- ==== Sys2Proof/Laws/Poll.lean ====
section
/-! SUPPORT. The transmit poll loop on a quiet machine: a poll that a flag resolves, and polls that none does. -/

namespace Sys2Proof.Machine

/-- What the engine's step does depends on the position only through the event primitive or end step it resolves to (R22). -/
theorem runUntil_resolve {s t : State} (n : Nat) (hp : s.phase = .run) (hp' : t.phase = .run) (he : s.env = [])
    (he' : t.env = []) (hm : engineStep s = engineStep t) :
    runUntil commandDone (n + 1) s = runUntil commandDone (n + 1) t := by
  simp [runUntil, commandDone_run hp, commandDone_run hp', move_quiet he, move_quiet he', hm]

/-- A test of a poll that lets the machine go on stands for what it leads to. -/
theorem engineStep_seq {s : State} {k l rest : List MicroOp} {op : MicroOp} (hp : s.phase = .run) (h0 : s.settleCnt = 0)
    (hk : resolve (s.withSeq k) = op :: rest) (hl : resolve (s.withSeq l) = op :: rest) :
    engineStep (s.withSeq k) = engineStep (s.withSeq l) := by
  simp [engineStep, hp, h0, microStep, hk, hl]

/-- The loop condition before the first poll (R239). -/
theorem runUntil_pollLoop {s : State} {e : Ending} (n : Nat) (hp : s.phase = .run) (he : s.env = []) (h0 : s.settleCnt = 0) :
    runUntil commandDone (n + 1) (s.withSeq [.pollLoop, .finish e])
      = runUntil commandDone (n + 1) (s.withSeq (pollAgain s [.finish e])) := by
  by_cases h : s.pollCnt < s.cfg.pollMax
  · rw [pollAgain, if_pos h]
    exact runUntil_resolve n hp hp he he (engineStep_seq hp h0 (by simp [resolve, pollAgain, h, readRegOps, frameOps]) rfl)
  · rw [pollAgain, if_neg h]
    exact runUntil_resolve n hp hp he he (engineStep_seq hp h0 (by simp [resolve, pollAgain, h]) rfl)

/-- A poll that reads TX_DS set (R235, R236). -/
theorem runUntil_pollTest_txDs {s : State} {k : List MicroOp} (n : Nat) (hp : s.phase = .run) (he : s.env = [])
    (h0 : s.settleCnt = 0) (hf : hasFlag (txDsMask s.cfg) s.tmp = true) :
    runUntil commandDone (n + 1) (s.withSeq (.pollTest :: k))
      = runUntil commandDone (n + 1) (s.withSeq (pollResolved (txDsMask s.cfg) true)) := by
  exact runUntil_resolve n hp hp he he
    (engineStep_seq hp h0 (by simp [resolve, hf, pollResolved, writeRegOps, frameOps]) rfl)

/-- A poll that reads MAX_RT set and TX_DS clear (R235, R236). -/
theorem runUntil_pollTest_maxRt {s : State} {k : List MicroOp} (n : Nat) (hp : s.phase = .run) (he : s.env = [])
    (h0 : s.settleCnt = 0) (hf : hasFlag (txDsMask s.cfg) s.tmp = false) (hm : hasFlag (maxRtMask s.cfg) s.tmp = true) :
    runUntil commandDone (n + 1) (s.withSeq (.pollTest :: k))
      = runUntil commandDone (n + 1) (s.withSeq (pollResolved (maxRtMask s.cfg) false)) := by
  exact runUntil_resolve n hp hp he he
    (engineStep_seq hp h0 (by simp [resolve, hf, hm, pollResolved, writeRegOps, frameOps]) rfl)

/-- A poll that reads neither flag (R235, R237). -/
theorem runUntil_pollTest_none {s : State} {e : Ending} (n : Nat) (hp : s.phase = .run) (he : s.env = [])
    (h0 : s.settleCnt = 0) (hf : hasFlag (txDsMask s.cfg) s.tmp = false) (hm : hasFlag (maxRtMask s.cfg) s.tmp = false) :
    runUntil commandDone (n + 1) (s.withSeq [.pollTest, .finish e])
      = runUntil commandDone (n + 1) (s.withSeq (pollAgain s [.finish e])) := by
  by_cases h : s.pollCnt < s.cfg.pollMax
  · rw [pollAgain, if_pos h]
    exact runUntil_resolve n hp hp he he
      (engineStep_seq hp h0 (by simp [resolve, hf, hm, pollAgain, h, readRegOps, frameOps]) rfl)
  · rw [pollAgain, if_neg h]
    exact runUntil_resolve n hp hp he he (engineStep_seq hp h0 (by simp [resolve, hf, hm, pollAgain, h]) rfl)

theorem State.Still.polled {s : State} (h : s.Still) : s.polled.Still := ⟨h.settle, rfl, h.known⟩

/-- `n` polls that read neither flag, then the end step that stands after the loop (R234, R237). -/
theorem runUntil_polls {s : State} {e : Ending} (n m : Nat) (hp : s.phase = .run) (he : s.env = []) (h : s.Still)
    (hf : s.radio.fTxDs = false) (hm : s.radio.fMaxRt = false) (hn : s.pollCnt + n = s.cfg.pollMax) :
    runUntil commandDone (n * (4 + 2 * s.cfg.settleTicks) + 1 + m) (s.withSeq (pollAgain s [.finish e]))
      = .next (endStep e (State.polled^[n] s)) := by
  induction n generalizing s with
  | zero =>
    rw [show 0 * (4 + 2 * s.cfg.settleTicks) + 1 + m = m + 1 by omega, pollAgain, if_neg (by omega),
      runUntil_finish (s := s.withSeq [.finish e]) (e := e) (k := []) m hp he h.settle rfl, endStep_seq]
    rfl
  | succ n ih =>
    have h1 := runUntil_ops (readRegOps 0x07#5 .poll) [.pollTest, .finish e] (n * (4 + 2 * s.cfg.settleTicks) + m + 1)
      (isEvent_readRegOps _ _) hp he h.settle
    rw [opsCost_readRegOps, opsRun_poll h] at h1
    rw [pollAgain, if_pos (by omega),
      show (n + 1) * (4 + 2 * s.cfg.settleTicks) + 1 + m
        = 4 + 2 * s.cfg.settleTicks + (n * (4 + 2 * s.cfg.settleTicks) + m + 1) by rw [Nat.succ_mul]; omega, h1]
    have ht : hasFlag (txDsMask s.polled.cfg) s.polled.tmp = false := (hasFlag_txDs s.cfg s.radio).trans hf
    have hr : hasFlag (maxRtMask s.polled.cfg) s.polled.tmp = false := (hasFlag_maxRt s.cfg s.radio).trans hm
    show runUntil commandDone _ (s.polled.withSeq _) = _
    rw [runUntil_pollTest_none _ (by exact hp) (by exact he) h.polled.settle ht hr, Function.iterate_succ_apply]
    have h2 := ih (s := s.polled) hp he h.polled hf hm (by show s.pollCnt + 1 + n = s.cfg.pollMax; omega)
    rw [show n * (4 + 2 * s.cfg.settleTicks) + m + 1 = n * (4 + 2 * s.cfg.settleTicks) + 1 + m by omega]
    exact h2

end Sys2Proof.Machine
end

