-- ==== Sys2Proof/Laws/Spi.lean ====
section
/-! SUPPORT. The run of an SPI command on a quiet machine: the command byte, the exchanges of its data phase, the frame's end. -/

namespace Sys2Proof.Machine

/-- An exchange of a data phase. -/
def MicroOp.isData : MicroOp → Bool
  | .out _     => true
  | .read _    => true
  | .driveCS _ => false
  | .driveCE _ => false
  | .cmd _     => false
  | .pollLoop  => false
  | .pollTest  => false
  | .finish _  => false

theorem isEvent_of_isData {op : MicroOp} (h : op.isData = true) : op.isEvent = true := by
  cases op <;> first | rfl | cases h

theorem opCost_of_isData {p : Params} {op : MicroOp} (h : op.isData = true) : opCost p op = 1 := by
  cases op <;> first | rfl | cases h

theorem opStep_data_csN {s t : State} {op : MicroOp} (hop : op.isData = true) (h : opStep s op = .ok t) : t.csN = s.csN := by
  cases op with
  | out src =>
    simp only [opStep] at h
    cases hb : sourceByte src s with
    | ok b => rw [hb] at h; cases h; rfl
    | error f => rw [hb] at h; cases h
  | read dst => cases h; cases dst <;> rfl
  | driveCS l => cases hop
  | driveCE l => cases hop
  | cmd c => cases hop
  | pollLoop => cases hop
  | pollTest => cases hop
  | finish e => cases hop

theorem frameDone_inside {s : State} (hp : s.phase = .run) (hc : s.csN = false) : frameDone s = false := by
  simp [frameDone, hp, hc]

theorem frameDone_settling {s : State} (hp : s.phase = .run) (h : s.settleCnt ≠ 0) : frameDone s = false := by
  simp [frameDone, hp, h]

/-- A data phase at the head of an open frame's procedure runs as its fold. -/
theorem runUntil_data (ops k : List MicroOp) (n : Nat) {s : State} (hops : ops.all MicroOp.isData = true)
    (hp : s.phase = .run) (he : s.env = []) (h0 : s.settleCnt = 0) (hc : s.csN = false) :
    runUntil frameDone (ops.length + n) (s.withSeq (ops ++ k)) =
      match opsRun ops s with
      | .ok t    => runUntil frameDone n (t.withSeq k)
      | .error f => .fault f := by
  induction ops generalizing s with
  | nil => simp
  | cons op rest ih =>
    simp only [List.all_cons, Bool.and_eq_true] at hops
    have h := runUntil_op (done := frameDone) (s := s.withSeq (op :: (rest ++ k))) (k := rest ++ k)
      (rest.length + n) (isEvent_of_isData hops.1) hp he h0 rfl (frameDone_inside hp hc)
      (fun t ht ht0 => frameDone_settling ht ht0)
    rw [withSeq_withSeq, opStep_seq, opCost_of_isData hops.1] at h
    rw [List.length_cons, show rest.length + 1 + n = 1 + (rest.length + n) by omega, List.cons_append, h]
    simp only [opsRun]
    cases hst : opStep s op with
    | ok t =>
      obtain ⟨_, h2, h3, h4⟩ := opStep_keeps hst
      have hcs := opStep_data_csN hops.1 hst
      simpa [Except.map] using ih (s := t) hops.2 (h2.trans hp) (h3.trans he) (h4 h0) (hcs.trans hc)
    | error f => simp [Except.map]

theorem opsRun_data_csN {ops : List MicroOp} {s t : State} (hops : ops.all MicroOp.isData = true)
    (h : opsRun ops s = .ok t) : t.csN = s.csN := by
  induction ops generalizing s with
  | nil => cases h; rfl
  | cons op rest ih =>
    simp only [List.all_cons, Bool.and_eq_true] at hops
    simp only [opsRun] at h
    cases hs : opStep s op with
    | ok u => rw [hs] at h; exact (ih hops.2 h).trans (opStep_data_csN hops.1 hs)
    | error f => rw [hs] at h; cases h

/-- An SPI command of an engine at a command byte: its own command byte, the fold of the data phase, the frame's end. -/
theorem spiFrame_quiet {s : State} {c c' : Byte} {ops k : List MicroOp} (h : s.AtCommand c' (ops ++ .driveCS true :: k))
    (hops : ops.all MicroOp.isData = true) :
    spiFrame c s =
      match opsRun ops (commandByte c s) with
      | .ok t    => .next ((settled (driveCS true t)).withSeq k)
      | .error f => .fault f := by
  obtain ⟨hp, h0, hs, hc, -, -, -, -, he⟩ := h
  have hat : atCommandByte s = some c' := by simp [atCommandByte, hp, h0, hs]
  have hlen : ∃ n, s.env.length + (s.seq.length + 1) * (s.cfg.settleTicks + 1) = ops.length + (s.cfg.settleTicks + 1 + n) := by
    refine ⟨_, (Nat.add_sub_of_le ?_).symm.trans (Nat.add_assoc _ _ _)⟩
    have : (ops.length + (s.cfg.settleTicks + 1)) * 1 ≤ (s.seq.length + 1) * (s.cfg.settleTicks + 1) := by
      simp only [hs, List.length_cons, List.length_append]
      nlinarith [Nat.zero_le ops.length, Nat.zero_le s.cfg.settleTicks, Nat.zero_le k.length]
    omega
  obtain ⟨n, hn⟩ := hlen
  have hd := runUntil_data ops (.driveCS true :: k) (s.cfg.settleTicks + 1 + n) (s := commandByte c s) hops hp he h0 hc
  have hcb : commandByte c (s.withSeq (ops ++ .driveCS true :: k)) = (commandByte c s).withSeq (ops ++ .driveCS true :: k) := rfl
  rw [spiFrame, hat]
  simp only [hs, List.tail_cons, hcb]
  rw [← hs, hn, hd]
  cases hr : opsRun ops (commandByte c s) with
  | error f => rfl
  | ok t =>
    obtain ⟨k1, k2, k3, k4⟩ := opsRun_keeps hr
    have hcs := (opsRun_data_csN hops hr).trans hc
    have hp' : t.phase = .run := k2.trans hp
    have h := runUntil_op (done := frameDone) (s := t.withSeq (.driveCS true :: k)) (k := k) (op := .driveCS true) n rfl hp'
      (k3.trans he) (k4 h0) rfl (frameDone_inside hp' hcs) (fun t ht ht0 => frameDone_settling ht ht0)
    have hcost : opCost (t.withSeq (.driveCS true :: k)).cfg (.driveCS true) = s.cfg.settleTicks + 1 := by
      show t.cfg.settleTicks + 1 = _
      rw [k1]; rfl
    rw [hcost, withSeq_withSeq, opStep_seq] at h
    simp only [h, opStep, Except.map]
    exact runUntil_done n (by simp [frameDone, settled])

/-- The command byte of an SPI command at the head of a known radio's frame (R146). -/
theorem commandByte_known {s : State} {c c' : Byte} {rest : List MicroOp} {i : Instr} {fc : FrameCmd} (h : s.AtCommand c' rest)
    (hc : decodeSpi c = .ok i) (hfc : frameCmdOf i = fc) :
    commandByte c s =
      { s.exchanged c (s.radio.within fc 0 []) with lstat := statusValue s.cfg s.radio } := by
  obtain ⟨-, -, -, -, hin, hf, ha, hk, -⟩ := h
  subst hfc
  have hm : s.misoByte = statusValue s.cfg s.radio := by simp [State.misoByte, Radio.miso, hk, hin, hf]
  have hr : s.radio.onXfer s.cfg c = s.radio.within (frameCmdOf i) 0 [] := by
    simp [Radio.onXfer, hin, hf, Radio.onCommand, hc, Radio.within, ha]
  rw [commandByte, xfer_known hk hr hk, hm]

/-- A data byte after the first of a write to a register of one byte changes nothing (R148). -/
theorem Radio.writeAt_past (p : Params) {a : RegAddr} (ha : ∀ j, regName a ≠ .five j) (hu : regName a ≠ .unmapped) {k : Nat}
    (hk : k ≠ 0) (m : Byte) (r : Radio) : r.writeAt p a k m = r := by
  unfold Radio.writeAt
  split <;> simp_all

/-- A known radio takes the bytes `bs` of a write to a register of one byte, none of them the first. -/
theorem sendAll_past {a : RegAddr} (ha : ∀ j, regName a ≠ .five j) (hu : regName a ≠ .unmapped) (bs : List Byte) {k : Nat}
    (h0 : k ≠ 0) {s : State} {r : Radio} (hk : r.radioUnknown = false) (hr : s.radio = r.within (.wReg a) k []) :
    sendAll bs s =
      { s with
        radio := r.within (.wReg a) (k + bs.length) []
        trace := ((sent s.draws bs).map (fun x => BusEvent.xfer x.1 x.2)).reverse ++ s.trace
        draws := s.draws + bs.length } := by
  induction bs generalizing s k with
  | nil => simp [← hr]
  | cons b bs ih =>
    have hw : s.radio.onXfer s.cfg b = r.within (.wReg a) (k + 1) [] := by
      rw [hr, Radio.onXfer_within_wReg, Radio.writeAt_past _ ha hu h0]
    have h1 := xfer_known (s := s) (m := b) (by rw [hr]; exact hk) hw hk
    have hm : s.misoByte = Config.freeByte s.draws := by simp [State.misoByte, hr, Radio.miso]
    rw [sendAll_cons, h1, ih (k := k + 1) (by omega) rfl]
    apply State.ext <;> simp [State.exchanged, sent_cons, hm, Nat.add_assoc, Nat.add_comm 1]

end Sys2Proof.Machine
end

