-- ==== Sys2Proof/Laws/Step.lean ====
section
/-! SUPPORT. What a step of the machine can be, said once: a step of the engine, a move of the environment, or a whole
instruction, which is an accept (or a command byte) followed by such moves. What each of these keeps, every step keeps. -/

namespace Sys2Proof.Machine

/-- The procedure of a host command (R22); an SPI command has none of its own. -/
def procedureOf (p : Params) : Instr → List MicroOp
  | .rRegister _          => []
  | .wRegister _          => []
  | .wTxPayload           => []
  | .rRxPayload           => []
  | .writeReg a v         => procWriteReg a v
  | .readReg a            => procReadReg a
  | .beginRadio           => procBegin
  | .setChannel v         => procSetChannel v
  | .setPaLevel v         => procSetPaLevel v
  | .openWritingPipe      => procOpenWritingPipe
  | .openReadingPipe v    => procOpenReadingPipe v
  | .startListening       => procStartListening
  | .stopListening        => procStopListening
  | .writePayload n       => procWritePayload p.payloadMax n
  | .available            => procAvailable
  | .readPayload n        => procReadPayload p n

/-- The state WRITE_PAYLOAD is accepted in has `poll_cnt` 0 (R25); every other command is accepted as it finds the machine. -/
def beforeAccept (i : Instr) (s : State) : State :=
  match i with
  | .writePayload _ => if s.phase = .idle then { s with pollCnt := 0 } else s
  | .rRegister _ | .wRegister _ | .wTxPayload | .rRxPayload | .writeReg _ _ | .readReg _ | .beginRadio | .setChannel _
  | .setPaLevel _ | .openWritingPipe | .openReadingPipe _ | .startListening | .stopListening | .available | .readPayload _ => s

/-- A host instruction is its procedure, run from its accept. -/
theorem exec_host {i : Instr} {w : Word} (h : encode i = .host w) (s : State) :
    exec i s = hostCommand w (procedureOf s.cfg i) (beforeAccept i s) := by
  have hw : commandWord i = w := by simp [commandWord, h]
  subst hw
  cases i <;> first | rfl | (cases h)

/-- The other instructions are runs of a frame from its command byte. -/
theorem exec_spi {i : Instr} {c : Byte} (h : encode i = .spi c) (s : State) : exec i s = spiFrame c s := by
  cases i <;> first | (cases h; rfl) | (cases h)

theorem encode_decodeHost {w : Word} {i : Instr} (h : decodeHost w = .ok i) : ∃ v, encode i = .host v := by
  unfold decodeHost at h
  split at h
  · rename_i r hr
    have hm := List.mem_of_find?_eq_some hr
    cases h
    simp only [hostRows, List.mem_cons, List.not_mem_nil, or_false] at hm
    rcases hm with rfl | rfl | rfl | rfl | rfl | rfl | rfl | rfl | rfl | rfl | rfl | rfl <;> exact ⟨_, rfl⟩
  · cases h

theorem encode_decodeSpi {c : Byte} {i : Instr} (h : decodeSpi c = .ok i) : encode i = .spi c := by
  have key : ∀ c, (match decodeSpi c with | .ok i => decide (encode i = .spi c) | .error _ => true) = true := by decide
  have := key c
  rw [h] at this
  exact of_decide_eq_true this

/-- What the run of moves keeps. -/
theorem runUntil_keeps {P : State → Prop} (done : State → Bool)
    (hmove : ∀ s t, P s → done s = false → move s = .next t → P t) :
    ∀ (n : Nat) (s t : State), P s → runUntil done n s = .next t → P t := by
  intro n
  induction n with
  | zero => intro s t hs h; cases h; exact hs
  | succ n ih =>
    intro s t hs h
    rw [runUntil] at h
    split at h
    · cases h; exact hs
    · rename_i hd
      cases hm : move s with
      | next u => rw [hm] at h; exact ih u t (hmove s u hs (by simpa using hd) hm) h
      | fault f => rw [hm] at h; cases h
      | refused r => rw [hm] at h; cases h

/-- What the agents' own steps keep, one move keeps. -/
theorem move_keeps {P : State → Prop}
    (hengine : ∀ s t, P s → engineStep s = .next t → P t)
    (henv : ∀ s x e, P s → s.env = x :: e → P (s.withEnv e))
    (hreset : ∀ s e, P s → s.env = .reset :: e → P (resetStep (s.withEnv e)))
    (hrf : ∀ s x e, P s → s.env = .rf x :: e → P ((s.withEnv e).react (rfStep s.cfg x)))
    (hhost : ∀ s h e t, P s → s.env = .host h :: e → hostEnabled h s = true → hostStep h (s.withEnv e) = .next t → P t)
    {s t : State} (hs : P s) (h : move s = .next t) : P t := by
  unfold move scheduled at h
  split at h
  · exact hengine s t hs h
  · rename_i e he; exact hengine _ t (henv s _ e hs he) h
  · rename_i e he; cases h; exact hreset s e hs he
  · rename_i x e he; cases h; exact hrf s x e hs he
  · rename_i x e he
    split at h
    · rename_i hx; exact hhost s x e t hs he hx h
    · exact hengine s t hs h

/-- What the agents' own steps and every accept keep, every step of the machine keeps. -/
theorem step_keeps {P : State → Prop}
    (hengine : ∀ s t, P s → engineStep s = .next t → P t)
    (henv : ∀ s x e, P s → s.env = x :: e → P (s.withEnv e))
    (hreset : ∀ s e, P s → s.env = .reset :: e → P (resetStep (s.withEnv e)))
    (hrf : ∀ s x e, P s → s.env = .rf x :: e → P ((s.withEnv e).react (rfStep s.cfg x)))
    (hhost : ∀ s h e t, P s → s.env = .host h :: e → hostEnabled h s = true → hostStep h (s.withEnv e) = .next t → P t)
    (hpoll : ∀ s, P s → s.phase = .idle → P { s with pollCnt := 0 })
    (haccept : ∀ s w i, P s → s.phase = .idle → (∀ n, i = .writePayload n → s.pollCnt = 0) → encode i = .host w →
      P (accept w (procedureOf s.cfg i) s))
    (hbad : ∀ s w, P s → s.phase = .idle → P (accept w [.finish (.error .errCmd)] s))
    {s t : State} (hs : P s) (h : step s = .next t) : P t := by
  have hmv : ∀ s t, P s → move s = .next t → P t := fun s t => move_keeps hengine henv hreset hrf hhost
  have hrun : ∀ (done : State → Bool) (n : Nat) (s t : State), P s → runUntil done n s = .next t → P t :=
    fun done => runUntil_keeps done (fun s t h _ => hmv s t h)
  have hcommand : ∀ (i : Instr) (w : Word) (s t : State), P s → encode i = .host w → exec i s = .next t → P t := by
    intro i w s t hs hi h
    rw [exec_host hi] at h
    have hb : P (beforeAccept i s) ∧ (beforeAccept i s).phase = s.phase ∧ (beforeAccept i s).cfg = s.cfg
        ∧ (s.phase = .idle → ∀ n, i = .writePayload n → (beforeAccept i s).pollCnt = 0) := by
      unfold beforeAccept
      split
      · split
        · rename_i hp; exact ⟨hpoll s hs hp, rfl, rfl, fun _ _ _ => rfl⟩
        · rename_i hp; exact ⟨hs, rfl, rfl, fun hp' => absurd hp' hp⟩
      all_goals exact ⟨hs, rfl, rfl, fun _ _ hn => by cases hn⟩
    rw [hostCommand] at h
    split at h
    · rename_i hp
      rw [← hb.2.2.1] at h
      exact hrun _ _ _ _ (haccept _ w i hb.1 hp (hb.2.2.2 (hb.2.1 ▸ hp)) hi) h
    · cases h; exact hb.1
  have hframe : ∀ (i : Instr) (c : Byte) (s t : State), P s → atCommandByte s = some c → encode i = .spi c →
      exec i s = .next t → P t := by
    intro i c s t hs hat hi h
    rw [exec_spi hi, spiFrame, hat] at h
    have hse : s.phase = .run ∧ s.settleCnt = 0 ∧ ∃ k, s.seq = .cmd c :: k := by
      unfold atCommandByte at hat
      split at hat
      · rename_i h1 h2 h3; cases hat; exact ⟨h1, h2, _, h3⟩
      · cases hat
    obtain ⟨hp, h0, k, hk⟩ := hse
    refine hrun _ _ _ _ (hengine s _ hs ?_) h
    rw [engineStep_event (op := .cmd c) (k := k) rfl hp h0 hk, hk]
    rfl
  have hturn : ∀ s t, P s → engineTurn s = .next t → P t := by
    intro s t hs h
    unfold engineTurn at h
    split at h
    · rename_i w hp hw
      cases hd : decodeHost w with
      | ok i =>
        rw [hd] at h
        obtain ⟨v, hv⟩ := encode_decodeHost hd
        exact hcommand i v s t hs hv h
      | error e =>
        rw [hd] at h
        simp only [badCommand, hostCommand, hp, if_true] at h
        exact hrun _ _ _ _ (hbad s w hs hp) h
    · split at h
      · rename_i c hat
        cases hd : decodeSpi c with
        | ok i => rw [hd] at h; exact hframe i c s t hs hat (encode_decodeSpi hd) h
        | error e => rw [hd] at h; exact hengine s t hs h
      · exact hengine s t hs h
  unfold step scheduled at h
  split at h
  · exact hturn s t hs h
  · rename_i e he; exact hturn _ t (henv s _ e hs he) h
  · rename_i e he; cases h; exact hreset s e hs he
  · rename_i x e he; cases h; exact hrf s x e hs he
  · rename_i x e he
    split at h
    · rename_i hx; exact hhost s x e t hs he hx h
    · exact hturn s t hs h

end Sys2Proof.Machine
end

