-- ==== Sys2Proof/Tests/Slice0.lean ====
section
/-! SUPPORT. Tests: ill-formed lines, words written out from the encodings, one-step tests on the vectors of 95_test_vectors (each
names its row), and for every statement with hypotheses a state and operands that meet them. -/

namespace Sys2Proof.Tests

open Sys2Proof Sys2Proof.Machine

/-! ### Well-formedness: one ill-formed line for each check (R118, R119) -/

theorem test_illFormed_writeReg_address : (AsmLine.writeReg 32 0).wellFormed 32 = false := by decide
theorem test_illFormed_writeReg_value : (AsmLine.writeReg 31 256).wellFormed 32 = false := by decide
theorem test_illFormed_readReg : (AsmLine.readReg 32).wellFormed 32 = false := by decide
theorem test_illFormed_setChannel : (AsmLine.setChannel 256).wellFormed 32 = false := by decide
theorem test_illFormed_setPaLevel : (AsmLine.setPaLevel 256).wellFormed 32 = false := by decide
theorem test_illFormed_openReadingPipe : (AsmLine.openReadingPipe 256).wellFormed 32 = false := by decide
theorem test_illFormed_write : (AsmLine.write 256).wellFormed 32 = false := by decide
theorem test_illFormed_read : (AsmLine.read 256).wellFormed 32 = false := by decide
theorem test_illFormed_addr_count : (AsmLine.addr [1, 2, 3, 4]).wellFormed 32 = false := by decide
theorem test_illFormed_addr_byte : (AsmLine.addr [1, 2, 3, 4, 256]).wellFormed 32 = false := by decide
theorem test_illFormed_txb_count : (AsmLine.txb [1, 2, 3]).wellFormed 2 = false := by decide
theorem test_illFormed_txb_byte : (AsmLine.txb [256]).wellFormed 32 = false := by decide
theorem test_illFormed_word : (AsmLine.word (2 ^ 32)).wellFormed 32 = false := by decide
theorem test_wellFormed_edges :
    (AsmLine.writeReg 31 255).wellFormed 32 = true ∧ (AsmLine.openReadingPipe 255).wellFormed 32 = true
      ∧ (AsmLine.txb [255, 0]).wellFormed 2 = true ∧ (AsmLine.word (2 ^ 32 - 1)).wellFormed 32 = true := by decide

/-! ### Decoding: words written out bit by bit (opcode table, R101-R104, R112) -/

theorem test_decode_rRegister : decodeTableWord 8 0b00011111 = some (.rRegister 31#5) := by decide
theorem test_decode_wRegister : decodeTableWord 8 0b00100111 = some (.wRegister 7#5) := by decide
theorem test_decode_wTxPayload : decodeTableWord 8 0b10100000 = some .wTxPayload := by decide
theorem test_decode_rRxPayload : decodeTableWord 8 0b01100001 = some .rRxPayload := by decide
theorem test_decode_writeReg :
    decodeTableWord 32 0b00000000_11111111_00011111_00000000 = some (.writeReg 31#5 0xFF#8) := by decide
theorem test_decode_readReg : decodeTableWord 32 0b00000000_00000000_00000110_00000001 = some (.readReg 6#5) := by decide
theorem test_decode_beginRadio : decodeTableWord 32 0b00000000_00000000_00000000_00000010 = some .beginRadio := by decide
theorem test_decode_setChannel :
    decodeTableWord 32 0b00000000_01001100_00000000_00000011 = some (.setChannel 0x4C#8) := by decide
theorem test_decode_setPaLevel :
    decodeTableWord 32 0b00000000_00000001_00000000_00000100 = some (.setPaLevel 1#8) := by decide
theorem test_decode_openWritingPipe :
    decodeTableWord 32 0b00000000_00000000_00000000_00000101 = some .openWritingPipe := by decide
theorem test_decode_openReadingPipe :
    decodeTableWord 32 0b00000000_00000001_00000000_00000110 = some (.openReadingPipe 1#8) := by decide
theorem test_decode_startListening :
    decodeTableWord 32 0b00000000_00000000_00000000_00000111 = some .startListening := by decide
theorem test_decode_stopListening :
    decodeTableWord 32 0b00000000_00000000_00000000_00001000 = some .stopListening := by decide
theorem test_decode_writePayload :
    decodeTableWord 32 0b00000000_00100001_00000000_00001001 = some (.writePayload 33#8) := by decide
theorem test_decode_available : decodeTableWord 32 0b00000000_00000000_00000000_00001010 = some .available := by decide
theorem test_decode_readPayload :
    decodeTableWord 32 0b00000000_00000010_00000000_00001011 = some (.readPayload 2#8) := by decide

/-- The words part 2 of 95_test_vectors lists as BAD. -/
theorem test_decode_bad :
    [0x0000000C, 0x0000000D, 0x0000000E, 0x0000000F, 0x00000010, 0x00002000, 0x01000000, 0x00000102, 0x00010002, 0x00FF0001,
      0x00000105, 0x00060106, 0x0021010B, 0xFFFFFFFF].all (fun w => decodeTableWord 32 w == none) = true := by decide

/-- The command bytes part 2 of 95_test_vectors lists as UNLISTED. -/
theorem test_decode_unlisted :
    [0x40, 0x60, 0x62, 0x9F, 0xA1, 0xE1, 0xFF].all (fun c => decodeTableWord 8 c == none) = true := by decide

/-- The constraints of R8 on the parameters: the defaults meet them, a latch of 256 bytes does not. -/
theorem test_params :
    Params.defaults.wf = true ∧ ({ Params.defaults with payloadMax := 256 } : Params).wf = false := by decide

/-! ### Helpers -/

/-- IDLE after reset, with the default parameters. -/
def ready : State := { State.reset with phase := .idle, busy := false, settleCnt := 0 }

/-- `s` with the radio changed. -/
def radioAs (f : Radio → Radio) (s : State) : State := { s with radio := f s.radio }

/-- Whether a next state came and it is as `p` says. -/
def nextIs (r : Result) (p : State → Bool) : Bool :=
  match r with
  | .next t    => p t
  | .fault _   => false
  | .refused _ => false

/-- Whether the outcome is the fault `f`. -/
def faultIs (r : Result) (f : Fault) : Bool :=
  match r with
  | .next _    => false
  | .fault g   => g == f
  | .refused _ => false

/-- An event without its MISO byte. -/
def mosi (e : BusEvent) : BusEvent :=
  match e with
  | .cs l     => .cs l
  | .ce l     => .ce l
  | .xfer m _ => .xfer m 0#8
  | .tick     => .tick

/-- The bus events in order, oldest first, without ticks and MISO bytes. -/
def bus (s : State) : List BusEvent := ((s.trace.filter (fun e => e != .tick)).map mosi).reverse

/-- The events of a frame in that form. -/
def busFrame (bytes : List Byte) : List BusEvent := .cs false :: (bytes.map (fun b => .xfer b 0#8) ++ [.cs true])

def setFlags (ds rt dr : Bool) (r : Radio) : Radio := { r with fTxDs := ds, fMaxRt := rt, fRxDr := dr }
def setConfig (v : Byte) (r : Radio) : Radio := { r with reg1 := r.reg1.set 0 v }
def setRfSetup (v : Byte) (r : Radio) : Radio := { r with reg1 := r.reg1.set 6 v }
def setRxq (q : List (List Byte)) (r : Radio) : Radio := { r with rxq := q }

/-- `ready` with TXB[0..1] = [0x48, 0x69] and CONFIG 0x0E: the start of the transmit vectors. -/
def readyTx : State :=
  radioAs (setConfig 0x0E#8) { ready with txb := [some 0x48#8, some 0x69#8] ++ List.replicate 30 none }

def readyAddr : State := { ready with addrl := #v[some 0x11#8, some 0x22#8, some 0x33#8, some 0x44#8, some 0x55#8] }

/-- The engine at the command byte `c` of an open frame of a known radio. -/
def atCmd (c : Byte) (rest : List MicroOp) : State :=
  { ready with
    phase := .run
    busy := true
    csN := false
    seq := .cmd c :: rest
    radio := { ready.radio with inFrame := true } }

def engines (n : Nat) : List EnvStep := List.replicate n .engine

/-! ### Register access -/

/-- A2: STATUS 0x30, `write_reg 7, 0x20`. -/
theorem test_writeReg_status :
    nextIs (exec (.writeReg 7#5 0x20#8) (radioAs (setFlags true true false) ready))
      (fun t => statusValue t.cfg t.radio == 0x10#8 && t.lstat == 0x30#8 && bus t == busFrame [0x27#8, 0x20#8]
        && t.trace.length == 8) = true := by decide

/-- A6: RX_ADDR_P0 [1,2,3,4,5], `write_reg 0x0A, 0x99`. -/
theorem test_writeReg_five :
    nextIs
      (exec (.writeReg 0x0A#5 0x99#8)
        (radioAs (fun r => { r with reg5 := r.reg5.set 0 #v[1#8, 2#8, 3#8, 4#8, 5#8] }) ready))
      (fun t => t.radio.reg5[0] == #v[0x99#8, 2#8, 3#8, 4#8, 5#8] && bus t == busFrame [0x2A#8, 0x99#8]) = true := by decide

/-- A9: `rf_rx([7])` between the command byte and the data byte of `read_reg 7`. -/
theorem test_readReg_rf_between :
    nextIs (exec (.readReg 7#5) { ready with env := engines 4 ++ [.rf (.rx [7#8])] })
      (fun t => t.rdata == 0x40#8 && t.lstat == 0x00#8 && t.rcode == .ok && !t.rflag) = true := by decide

/-- A7: RF_SETUP 0x07, `read_reg 6`. -/
theorem test_readReg_one :
    nextIs (exec (.readReg 6#5) (radioAs (setRfSetup 0x07#8) ready))
      (fun t => t.rdata == 0x07#8 && bus t == busFrame [0x06#8, 0xFF#8]) = true := by decide

/-! ### Configuration -/

set_option maxRecDepth 8000 in
/-- B1: `begin` with CE 1. -/
theorem test_begin :
    nextIs (exec .beginRadio (radioAs (setFlags true true true) { ready with ce := true }))
      (fun t => t.radio.reg1 == #v[0x0F#8, 0x3F#8, 0x03#8, 0x03#8, 0x04#8, 0x02#8, 0x07#8] && statusValue t.cfg t.radio == 0#8
        && !t.ce && t.lstat == 0x70#8 && (bus t).length == 33 && (bus t).head? == some (.ce false) && t.trace.length == 67)
      = true := by decide

/-- B5: `set_channel 0xFF`. -/
theorem test_setChannel :
    nextIs (exec (.setChannel 0xFF#8) ready)
      (fun t => t.radio.reg1[5] == 0xFF#8 && bus t == busFrame [0x25#8, 0xFF#8]) = true := by decide

/-- B7: RF_SETUP 0xE5, `set_pa_level 2`. -/
theorem test_setPaLevel :
    nextIs (exec (.setPaLevel 2#8) (radioAs (setRfSetup 0xE5#8) ready))
      (fun t => t.radio.reg1[6] == 0xE2#8 && bus t == busFrame [0x06#8, 0xFF#8] ++ busFrame [0x26#8, 0xE2#8]) = true := by
  decide

/-- B9: RF_SETUP 0xE5, `set_pa_level 8`. -/
theorem test_setPaLevel_high_bits :
    nextIs (exec (.setPaLevel 8#8) (radioAs (setRfSetup 0xE5#8) ready)) (fun t => t.radio.reg1[6] == 0xE0#8) = true := by decide

/-! ### Pipes -/

/-- C1: `open_writing_pipe`. -/
theorem test_openWritingPipe :
    nextIs (exec .openWritingPipe readyAddr)
      (fun t => t.radio.reg5[6] == #v[0x11#8, 0x22#8, 0x33#8, 0x44#8, 0x55#8] && t.radio.reg5[0] == ready.radio.reg5[0]
        && bus t == busFrame [0x30#8, 0x11#8, 0x22#8, 0x33#8, 0x44#8, 0x55#8]) = true := by decide

/-- C7: `open_writing_pipe` with ADDRL unwritten. -/
theorem test_openWritingPipe_unwritten :
    faultIs (exec .openWritingPipe ready) (.unwrittenLatch .addrl 0) = true := by decide

/-- C3: `open_reading_pipe 5`. -/
theorem test_openReadingPipe :
    nextIs (exec (.openReadingPipe 5#8) readyAddr)
      (fun t => t.radio.reg5[5] == #v[0x11#8, 0x22#8, 0x33#8, 0x44#8, 0x55#8]
        && bus t == busFrame [0x2F#8, 0x11#8, 0x22#8, 0x33#8, 0x44#8, 0x55#8]) = true := by decide

/-- C6: `open_reading_pipe 7` with ADDRL unwritten. -/
theorem test_openReadingPipe_invalid :
    nextIs (exec (.openReadingPipe 7#8) ready) (fun t => t.rcode == .errPipe && t.trace == [] && t.rvalid && !t.busy) = true := by
  decide

/-! ### Mode control -/

/-- M1: CONFIG 0x0E, CE 0, `start_listening`. -/
theorem test_startListening :
    nextIs (exec .startListening (radioAs (setConfig 0x0E#8) ready))
      (fun t => t.radio.reg1[0] == 0x0F#8 && t.ce && t.radio.listening
        && bus t == busFrame [0x00#8, 0xFF#8] ++ busFrame [0x20#8, 0x0F#8] ++ [.ce true] && t.trace.length == 19) = true := by
  decide

/-- M3: CONFIG 0x0F, CE 1, `stop_listening`. -/
theorem test_stopListening :
    nextIs (exec .stopListening (radioAs (setConfig 0x0F#8) { ready with ce := true }))
      (fun t => t.radio.reg1[0] == 0x0E#8 && !t.ce
        && bus t == .ce false :: (busFrame [0x00#8, 0xFF#8] ++ busFrame [0x20#8, 0x0E#8])) = true := by decide

/-! ### Transmit -/

/-- T3: `rf_tx_done` and `rf_tx_fail` after the prefix of `write 2`. -/
theorem test_writePayload_both_flags :
    nextIs (exec (.writePayload 2#8) { readyTx with env := engines 15 ++ [.rf .txDone, .rf .txFail] })
      (fun t => t.rflag && t.rcode == .ok && statusValue t.cfg t.radio == 0x10#8 && t.pollCnt == 1
        && bus t == busFrame [0xA0#8, 0x48#8, 0x69#8] ++ [.ce true, .ce false] ++ busFrame [0x07#8, 0xFF#8]
          ++ busFrame [0x27#8, 0x20#8]) = true := by decide

/-- T6: STATUS 0x40, no RF step, `write 2`: timeout. -/
theorem test_writePayload_timeout :
    nextIs (exec (.writePayload 2#8) (radioAs (setFlags false false true) readyTx))
      (fun t => !t.rflag && t.rcode == .ok && statusValue t.cfg t.radio == 0x40#8 && t.pollCnt == 3 && (bus t).length == 19
        && t.radio.txq == [[0x48#8, 0x69#8]] && t.radio.txPending == 1) = true := by decide

/-- P5: in `write 1`, `.txb 0x02` the command sends the byte that stood in the latch before the directive. -/
theorem test_directive_after_command :
    nextIs (step { ready with
        txb := some 0x01#8 :: List.replicate 31 none
        cmdw := some 0x00010009#32
        env := (assembleProgram 32 [.txb [2]]).getD [] })
      (fun t => t.radio.txq == [[0x01#8]] && t.txb[0]? == some (some 0x01#8) && t.env.length == 2 && t.phase == .idle)
      = true := by decide

/-- R47: the bytes of a payload frame are counted. -/
theorem test_wTxPayload_count :
    nextIs
      (exec .wTxPayload (atCmd 0xA0#8 [.out (.const 1#8), .out (.const 2#8), .driveCS true, .finish (.flag false)]))
      (fun t => t.radio.fidx == 2 && t.radio.txq == [[1#8, 2#8]]) = true := by decide

/-! ### Receive -/

/-- R2: STATUS 0x30, `available`. -/
theorem test_available :
    nextIs (exec .available (radioAs (setFlags true true false) ready))
      (fun t => !t.rflag && statusValue t.cfg t.radio == 0x30#8) = true := by decide

/-- R1: STATUS 0x40, `available`. -/
theorem test_available_ready :
    nextIs (exec .available (radioAs (setFlags false false true) ready))
      (fun t => t.rflag && statusValue t.cfg t.radio == 0x40#8 && t.rdata == 0#8) = true := by decide

/-- R6: rxq [[0xAA, 0x55]], `read 1`. -/
theorem test_readPayload_short :
    nextIs (exec (.readPayload 1#8) (radioAs (setRxq [[0xAA#8, 0x55#8]]) ready))
      (fun t => t.rxb.take 2 == [some 0xAA#8, none] && t.radio.rxq == []
        && bus t == busFrame [0x61#8, 0xFF#8] ++ busFrame [0x27#8, 0x40#8]) = true := by decide

/-- R11: `rf_rx([3])` between the payload frame and the clear frame of `read 1`. -/
theorem test_readPayload_new_payload :
    nextIs
      (exec (.readPayload 1#8)
        { radioAs (fun r => setRxq [[0xAA#8, 0x55#8]] (setFlags false false true r)) ready with
          env := engines 8 ++ [.rf (.rx [3#8])] })
      (fun t => t.radio.rxq == [[3#8]] && !t.radio.fRxDr) = true := by decide

/-! ### SPI commands -/

/-- R147: the five bytes of TX_ADDR in order. -/
theorem test_rRegister :
    nextIs
      (exec (.rRegister 0x10#5)
        (radioAs (fun r => { r with reg5 := r.reg5.set 6 #v[1#8, 2#8, 3#8, 4#8, 5#8] })
          (atCmd 0x10#8 ((List.range 5).map (fun i => .read (.rxb i)) ++ [.driveCS true, .finish (.flag false)]))))
      (fun t => t.rxb.take 5 == [some 1#8, some 2#8, some 3#8, some 4#8, some 5#8] && t.csN) = true := by decide

/-- R148: a second byte to a 1-byte register is ignored. -/
theorem test_wRegister :
    nextIs
      (exec (.wRegister 5#5)
        (atCmd 0x25#8 [.out (.const 0x4C#8), .out (.const 0x11#8), .driveCS true, .finish (.flag false)]))
      (fun t => t.radio.reg1[5] == 0x4C#8 && t.csN) = true := by decide

/-- R151: a payload with no byte is appended all the same. -/
theorem test_wTxPayload :
    nextIs (exec .wTxPayload (atCmd 0xA0#8 [.driveCS true, .finish (.flag false)])) (fun t => t.radio.txq == [[]]) = true := by
  decide

/-- R4: with no byte read the head payload stays. -/
theorem test_rRxPayload :
    nextIs (exec .rRxPayload (radioAs (setRxq [[0xAA#8]]) (atCmd 0x61#8 [.driveCS true, .finish (.flag false)])))
      (fun t => t.radio.rxq == [[0xAA#8]]) = true := by decide

/-! ### Reset and the fetch -/

/-- E5: reset in the payload frame of `write 2` after the first byte, with CE 1. -/
theorem test_reset_in_frame :
    nextIs
      (exec (.writePayload 2#8)
        { radioAs (fun r => { r with ceSeen := true, ceWasHigh := true }) readyTx with
          ce := true
          env := engines 5 ++ [.reset] })
      (fun t => (t.trace.take 2).map mosi == [.ce false, .cs true] && t.radio.txq == [[0x48#8]] && t.radio.txPending == 1
        && t.phase == .resetSettle && !t.rvalid && t.csN && !t.ce) = true := by decide

/-- E4: reset in `write_reg 1, 0x3F` before the data byte. -/
theorem test_reset_before_data :
    nextIs (exec (.writeReg 1#5 0x3F#8) { ready with env := engines 4 ++ [.reset] })
      (fun t => t.radio.reg1[1] == 0#8 && !t.rvalid && t.csN && (bus t).getLast? == some (.cs true)) = true := by decide

/-- A word placed with `withFetchWord` is the first instruction after reset. -/
theorem test_fetch_host :
    nextIs (step (State.reset.withFetchWord 32 0x00FF0003)) (fun t => t.radio.reg1[5] == 0xFF#8 && t.env == []) = true := by decide

/-- A command byte placed with `withFetchWord` is the first instruction after reset. -/
theorem test_fetch_spi :
    nextIs (step (State.reset.withFetchWord 8 0xA0)) (fun t => t.radio.txq == [[0#8]]) = true := by decide

/-! ### Witnesses: states and operands that meet the hypotheses of the statements -/

theorem test_witness_Ready : ready.Ready := by decide

/-- EveryWordHasOneMeaning. -/
theorem test_witness_decode : decodeHost 0x004C0500#32 = .ok (.writeReg 5#5 0x4C#8) ∧ decodeSpi 0x27#8 = .ok (.wRegister 7#5) :=
  ⟨rfl, rfl⟩

/-- BadWordsAreTheReservedOnes: a reserved op code, a reserved bit, an unused A, an unused V. -/
theorem test_witness_BadWords :
    0xC#4 ≤ opOf 0x0000000C#32 ∧ (opOf 0x00000010#32 < 0xC#4 ∧ 0x00000010#32 &&& 0xFF00E0F0#32 ≠ 0#32)
      ∧ (opOf 0x00000102#32 ≠ 0x0#4 ∧ opOf 0x00000102#32 ≠ 0x1#4 ∧ aOf 0x00000102#32 ≠ 0#5)
      ∧ (opOf 0x00FF0001#32 ∈ [0x1#4, 0x2#4, 0x5#4, 0x7#4, 0x8#4, 0xA#4] ∧ vOf 0x00FF0001#32 ≠ 0#8)
      ∧ decodeHost 0x0000000C#32 = .error (.reservedOp 0xC#4) ∧ decodeHost 0x00000010#32 = .error .reservedBits
      ∧ decodeHost 0x00FF0001#32 = .error .unusedField := by
  exact ⟨by decide, by decide, by decide, by decide, rfl, rfl, rfl⟩

/-- UnlistedCommandBytes: each end of each range, and a radio in a frame before its command byte. -/
theorem test_witness_UnlistedCommandBytes :
    [0x40#8, 0x60#8, 0x62#8, 0x9F#8, 0xA1#8, 0xFF#8].all (fun c => decodeTableWord 8 c.toNat == none) = true
      ∧ decodeSpi 0x40#8 = .error (.unlisted 0x40#8) ∧ (atCmd 0x40#8 []).radio.inFrame = true
      ∧ (atCmd 0x40#8 []).radio.fcmd = .none := by
  exact ⟨by decide, rfl, by decide, by decide⟩

/-- AddressDecoderOutputs: the last pipe and the first invalid one. -/
theorem test_witness_AddressDecoderOutputs : 5#8 ≤ 5#8 ∧ 5#8 < 6#8 ∧ pipeTarget 5#8 = some 0x0F#5 ∧ pipeTarget 6#8 = none := by
  decide

/-- TextLinesBecomeTheirWords. -/
theorem test_witness_TextLines :
    (AsmLine.writeReg 31 255).command? = some (.writeReg 31#5 255#8) ∧ (AsmLine.writeReg 31 255).wellFormed 32 = true
      ∧ (AsmLine.writeReg 32 255).wellFormed 32 = false
      ∧ AsmLine.assemble 32 (.writeReg 5 0x4C) = some [.issue 0x004C0500#32] := by decide

/-- DirectivesFillTheLatches. -/
theorem test_witness_Directives :
    ready.phase = .idle ∧ ready.cmdw = none ∧ ready.env = [] ∧ [0x48#8, 0x69#8].length ≤ ready.cfg.payloadMax
      ∧ ready.txb.length = ready.cfg.payloadMax := by decide

/-- LinesWaitForTheCommandBefore: a directive while a word is pending, and while the block settles after reset. -/
theorem test_witness_LinesWait :
    AsmLine.assemble ready.cfg.payloadMax (.txb [2]) = some [.await, .writeTxb 0 2#8]
      ∧ ({ ready with cmdw := some 0x00060006#32 } : State).cmdw ≠ none ∧ State.reset.phase ≠ .idle
      ∧ nextIs (step { ready with cmdw := some 0x00060006#32, env := [.host .await, .host (.writeTxb 0 2#8)] })
          (fun t => t.rcode == .errPipe && t.env == [.host .await, .host (.writeTxb 0 2#8)]) = true
      ∧ nextIs (step { State.reset with env := [.host .await, .host (.writeTxb 0 2#8)] }) (fun t => t.phase == .resetSettle)
        = true := by decide

/-- StepRunsTheDecodedInstruction, both clauses, with and without a schedule. -/
theorem test_witness_StepRuns :
    ({ ready with cmdw := some 0x00000002#32 } : State).phase = .idle ∧ decodeHost 0x00000002#32 = .ok .beginRadio
      ∧ ready.env = [] ∧ ({ ready with env := [.engine] } : State).env = [.engine]
      ∧ (atCmd 0xA0#8 []).phase = .run ∧ (atCmd 0xA0#8 []).settleCnt = 0 ∧ (atCmd 0xA0#8 []).seq = [.cmd 0xA0#8]
      ∧ decodeSpi 0xA0#8 = .ok .wTxPayload ∧ (atCmd 0xA0#8 []).env = [] :=
  ⟨rfl, rfl, rfl, rfl, rfl, rfl, rfl, rfl, rfl⟩

/-- BadWordEndsWithErrCmd. -/
theorem test_witness_BadWordEnds :
    ready.phase = .idle ∧ ready.settleCnt = 0 ∧ ready.env = []
      ∧ ({ ready with cmdw := some 0x0000000C#32 } : State).cmdw = some 0x0000000C#32
      ∧ decodeHost 0x0000000C#32 = .error (.reservedOp 0xC#4) := ⟨rfl, rfl, rfl, rfl, rfl⟩

/-- WriteRegResult, WriteRegUnmapped, ReadRegResult, ReadAfterWriteReturnsTheStoredByte, ReadAnswersByPosition: each clause at the
first and the last address of its range (with test_witness_Ready). -/
theorem test_witness_addresses :
    (0x00#5 : RegAddr).toNat = (0 : Fin 7).val ∧ (0x06#5 : RegAddr).toNat = (6 : Fin 7).val
      ∧ (0x0A#5 : RegAddr).toNat = 0x0A + (0 : Fin 7).val ∧ (0x10#5 : RegAddr).toNat = 0x0A + (6 : Fin 7).val
      ∧ (0x08#5 = 0x08#5 ∨ 0x08#5 = 0x09#5 ∨ 0x11#5 ≤ 0x08#5) ∧ (0x09#5 = 0x08#5 ∨ 0x09#5 = 0x09#5 ∨ 0x11#5 ≤ 0x09#5)
      ∧ (0x11#5 = 0x08#5 ∨ 0x11#5 = 0x09#5 ∨ 0x11#5 ≤ 0x11#5) ∧ (0x1F#5 = 0x08#5 ∨ 0x1F#5 = 0x09#5 ∨ 0x11#5 ≤ 0x1F#5)
      ∧ (0x06#5 : RegAddr).toNat < 7 ∧ 0x0A ≤ (0x0A#5 : RegAddr).toNat ∧ (0x10#5 : RegAddr).toNat ≤ 0x10 := by decide

/-- ReadRegResult: each alternative's byte. -/
theorem test_witness_ReadRegResult :
    (0x0F#8 = (setConfig 0x0F#8 ready.radio).reg1[0]) ∧ (0#8 = statusValue ready.cfg ready.radio)
      ∧ 0#8 = ready.radio.reg5[(6 : Fin 7)][0] := by decide

/-- WriteFrameStoresByPosition: a frame at its first data byte. -/
theorem test_witness_WriteFrame :
    (0x10#5 : RegAddr).toNat = 0x0A + (6 : Fin 7).val
      ∧ ({ ready.radio with inFrame := true, fcmd := .wReg 0x10#5 } : Radio).inFrame = true
      ∧ ({ ready.radio with inFrame := true, fcmd := .wReg 0x10#5 } : Radio).fcmd = .wReg 0x10#5 ∧ ready.radio.fidx = 0 := by
  decide

/-- EngineNeverSetsAFlag. -/
theorem test_witness_EngineNeverSets :
    nextIs (engineStep (atCmd 0x07#8 [])) (fun t => !t.radio.radioUnknown) = true := by decide

/-- WRegisterResult: five latch bytes to TX_ADDR, one byte to STATUS and to a 1-byte register, one to an unmapped address, none. -/
theorem test_witness_WRegister :
    (atCmd (0x20#8 ||| (0x10#5 : RegAddr).setWidth 8) (addrlBytes.map .out ++ .driveCS true :: [.finish (.flag false)])).AtCommand
        (0x20#8 ||| (0x10#5 : RegAddr).setWidth 8) (addrlBytes.map .out ++ .driveCS true :: [.finish (.flag false)])
      ∧ addrlBytes.map (fun src => sourceByte src readyAddr) = [0x11#8, 0x22#8, 0x33#8, 0x44#8, 0x55#8].map .ok
      ∧ [ByteSource.const 0x70#8].map (fun src => sourceByte src ready) = [0x70#8].map .ok
      ∧ ([] : List ByteSource).map (fun src => sourceByte src ready) = ([] : List Byte).map .ok ∧ [0x01#8] ≠ [] := by
  exact ⟨by decide, rfl, rfl, rfl, by decide⟩

/-- RRegisterResult, WTxPayloadResult, RRxPayloadResult. -/
theorem test_witness_SpiFrames :
    (atCmd ((7#5 : RegAddr).setWidth 8) ([ByteDest.tmp].map .read ++ .driveCS true :: [])).AtCommand
        ((7#5 : RegAddr).setWidth 8) ([ByteDest.tmp].map .read ++ .driveCS true :: [])
      ∧ (atCmd 0xA0#8 ([ByteSource.const 1#8].map .out ++ .driveCS true :: [])).AtCommand 0xA0#8
        ([ByteSource.const 1#8].map .out ++ .driveCS true :: [])
      ∧ (atCmd 0x61#8 ((List.range 32).map (fun i => .read (.rxb i)) ++ .driveCS true :: [])).AtCommand 0x61#8
        ((List.range 32).map (fun i => .read (.rxb i)) ++ .driveCS true :: []) ∧ 32 ≤ ready.rxb.length := by decide

/-- BeginReadsBackAndMayBeRepeated, StartThenStopListening: the identity RADIO_STORE. -/
theorem test_witness_identityStore :
    ready.cfg.storeRows = [] ∧ ∀ v : Byte, (radioStore ready.cfg 0x00#5 v).getLsbD 0 = v.getLsbD 0 := ⟨rfl, fun _ => rfl⟩

/-- OpenWritingPipeResult, OpenReadingPipeResult. -/
theorem test_witness_OpenPipes :
    readyAddr.Ready ∧ readyAddr.addrl = #v[some 0x11#8, some 0x22#8, some 0x33#8, some 0x44#8, some 0x55#8] := by decide

/-- InvalidOperandsEndInTheirCode: the first invalid pipe, the first length above the latch. -/
theorem test_witness_InvalidOperands :
    ready.phase = .idle ∧ ready.settleCnt = 0 ∧ ready.env = [] ∧ 5#8 < 6#8 ∧ ready.cfg.payloadMax < (33#8 : Byte).toNat := by decide

/-- UnwrittenLatchByteFaults: the first ADDRL byte, the last one, a TXB byte after a written one. -/
theorem test_witness_Unwritten :
    (ready.addrl[(0 : Fin 5)] = none ∧ ∀ k : Fin 5, k < 0 → ready.addrl[k] ≠ none)
      ∧ (#v[some 1#8, some 2#8, some 3#8, some 4#8, none][(4 : Fin 5)] = none
        ∧ ∀ k : Fin 5, k < 4 → #v[some 1#8, some 2#8, some 3#8, some 4#8, none][k] ≠ none)
      ∧ (2#8 : Byte).toNat ≤ ready.cfg.payloadMax ∧ [0x48#8].length < (2#8 : Byte).toNat
      ∧ ({ ready with txb := [some 0x48#8] ++ List.replicate 31 none } : State).txb
        = [0x48#8].map some ++ none :: List.replicate 30 none := by decide

/-- ChipEnableObservation: CE low, PRIM_RX 0, a payload waiting. -/
theorem test_witness_ChipEnable :
    readyTx.radio.ceSeen = false ∧ readyTx.radio.reg1[0].getLsbD 0 = false
      ∧ ({ readyTx.radio with txq := [[1#8]] } : Radio).txq ≠ [] := by decide

/-- WritePayloadSuccess, WritePayloadFailure, WritePayloadTimeout: two bytes, no byte, as many as the latch has. -/
theorem test_witness_WritePayload :
    readyTx.Ready ∧ (2#8 : Byte).toNat ≤ readyTx.cfg.payloadMax ∧ (32#8 : Byte).toNat ≤ readyTx.cfg.payloadMax
      ∧ 1 ≤ readyTx.cfg.pollMax ∧ [0x48#8, 0x69#8].length = (2#8 : Byte).toNat
      ∧ readyTx.txb.take (2#8 : Byte).toNat = [0x48#8, 0x69#8].map some ∧ readyTx.txb.take (0#8 : Byte).toNat = [].map some
      ∧ (radioAs (setFlags true true true) readyTx).radio.fTxDs = true
      ∧ (radioAs (setFlags false true true) readyTx).radio.fTxDs = false
      ∧ (radioAs (setFlags false true true) readyTx).radio.fMaxRt = true
      ∧ readyTx.radio.fTxDs = false ∧ readyTx.radio.fMaxRt = false := by decide

/-- PollResolution: each clause; the loop condition at its boundary. -/
theorem test_witness_PollResolution :
    ({ ready with phase := .run, seq := [.pollTest, .finish (.flag false)] } : State).phase = .run
      ∧ 0x20#8 &&& txDsMask ready.cfg ≠ 0#8 ∧ (0x10#8 &&& txDsMask ready.cfg = 0#8 ∧ 0x10#8 &&& maxRtMask ready.cfg ≠ 0#8)
      ∧ (0x40#8 &&& txDsMask ready.cfg = 0#8 ∧ 0x40#8 &&& maxRtMask ready.cfg = 0#8 ∧ 2 < ready.cfg.pollMax)
      ∧ ready.cfg.pollMax ≤ 3 := by decide

/-- ReadPayloadResult: no byte, and as many as the latch has. -/
theorem test_witness_ReadPayload :
    (0#8 : Byte).toNat ≤ ready.cfg.payloadMax ∧ (32#8 : Byte).toNat ≤ ready.cfg.payloadMax
      ∧ ready.rxb.length = ready.cfg.payloadMax := by decide

/-- RfStepEffects, RfStepsUnderRfCausal. -/
theorem test_witness_Rf :
    ({ ready with env := [.rf .txDone] } : State).env = [.rf .txDone] ∧ ready.cfg.rfCausal = false
      ∧ ({ ready with cfg := { ready.cfg with rfCausal := true } } : State).cfg.rfCausal = true
      ∧ ready.radio.radioUnknown = false := by decide

/-- IssueWaitsUntilIdle: a busy machine that steps, and an idle one with nothing pending. -/
theorem test_witness_Issue :
    ({ State.reset with env := [.host (.issue 2#32)] } : State).phase ≠ .idle
      ∧ nextIs (step { State.reset with env := [.host (.issue 2#32)] }) (fun t => t.env == [.host (.issue 2#32)]) = true
      ∧ ready.phase = .idle ∧ ready.cmdw = none := by decide

/-- HostReadsAndTheirStops: results not valid and valid, an RXB byte unwritten and written. -/
theorem test_witness_HostReads :
    ready.rvalid = false ∧ ({ ready with rvalid := true } : State).rvalid = true ∧ ready.rxb[0]? = some none
      ∧ ({ ready with rxb := [some 5#8] } : State).rxb[0]? = some (some 5#8) := by decide

/-- ResetValues, ResetSettleEndsInIdle, ResetStepFromAnyState. -/
theorem test_witness_Reset :
    1 ≤ Params.defaults.settleTicks ∧ State.reset.phase = .resetSettle ∧ State.reset.busy = true ∧ State.reset.settleCnt = 1 + 1
      ∧ State.reset.env = [] ∧ ({ ready with env := [.reset] } : State).env = [.reset] := by decide

theorem ready_inv : ready.Inv where
  released := by decide
  busy := by decide
  rvalid := by decide
  settle := by decide
  procedure := by decide
  polls := by decide
  latches := by decide
  lines := by decide

/-- InvariantAtReset, InvariantKeptByEveryStep, FramingRuleKept, SettlingRuleKept: a state with the invariant, its trace in order,
no reset scheduled, and a step. -/
theorem test_witness_Invariant :
    Radio.powerOn.inFrame = false ∧ Radio.powerOn.ceSeen = false ∧ ready.Inv ∧ csAfter ready.trace = some ready.csN
      ∧ ready.noReset ∧ ticksOwed ready.cfg ready.trace = some 0 ∧ 0 ≤ ready.settleCnt ∧ ∃ t, step ready = .next t :=
  ⟨rfl, rfl, ready_inv, rfl, by simp [State.noReset, ready, State.reset, State.resetWith], rfl, Nat.le_refl _, _, rfl⟩

/-- EveryCommandEnds, ResultCodeOfEveryCommand, ErrorsAreSilentOnTheBus, ChipEnableAfterEveryCommand: a command that ends in an
error, from a state with the invariant. -/
theorem test_witness_Commands :
    ready.Inv ∧ ready.noReset ∧ ready.phase = .idle ∧ encode (.openReadingPipe 6#8) = .host 0x00060006#32
      ∧ nextIs (exec (.openReadingPipe 6#8) ready) (fun t => t.rcode == .errPipe) = true ∧ ResultCode.errPipe ≠ .ok :=
  ⟨ready_inv, by simp [State.noReset, ready, State.reset, State.resetWith], rfl, by decide, by decide, by decide⟩

/-- ChipEnableAfterEveryCommand: CE after an accepted WRITE_PAYLOAD. -/
theorem test_witness_ChipEnableAfter :
    nextIs (exec (.writePayload 2#8) { readyTx with ce := true }) (fun t => !t.ce) = true := by decide

/-- InstructionsLeaveTheHostLatches, ResultLatchesAndTheirWriters: READ_REG and READ_PAYLOAD, and an index above the length. -/
theorem test_witness_Latches :
    nextIs (exec (.readReg 0#5) ready) (fun _ => true) = true ∧ nextIs (exec (.readPayload 1#8) ready) (fun _ => true) = true
      ∧ encode (.readPayload 1#8) = .host 0x0001000B#32 ∧ (1#8 : Byte).toNat ≤ 1 := by decide

/-- RefusalMarkIsSticky: a step of a machine whose radio is unknown. -/
theorem test_witness_Sticky :
    nextIs (step (radioAs (fun r => { r with radioUnknown := true }) { ready with env := [.rf .txDone] }))
      (fun t => t.radio.radioUnknown) = true := by decide

/-- EventCounts: the timeout and a resolved transmit. -/
theorem test_witness_EventCounts :
    1 ≤ readyTx.cfg.pollMax ∧ nextIs (exec (.writePayload 2#8) readyTx) (fun t => (bus t).length == 5 + 2 + 12) = true
      ∧ nextIs (exec (.writePayload 2#8) (radioAs (setFlags true false false) readyTx)) (fun t => (bus t).length == 9 + 2 + 4)
        = true := by decide

end Sys2Proof.Tests
end

/-! Register access as whole commands, and the STATUS byte bit by bit: the statements of the family 00_scope. -/

namespace Sys2Proof.Machine

/-! ### Commands one after the other -/

/-- A completed frame leaves the machine ready for the next command, the radio being closed and still known. -/
theorem State.Ready.afterFrame_finished {s : State} (h : s.Ready) (c : Byte) (xs : List (Byte × Byte)) {r : Radio} (n : Nat)
    (l : List Byte) (hr : r.radioUnknown = false) (w : Word) (code : ResultCode) (flag : Bool) :
    ((s.afterFrame c xs (r.closed n l)).finished w code flag).Ready := by
  obtain ⟨-, hsettle, -, -, henv⟩ := h
  exact ⟨rfl, hsettle, rfl, hr, henv⟩

/-! ### WRITE_REG and READ_REG by the radio's own reaction -/

/-- WRITE_REG to a mapped register of any kind (R140, R148): one frame, and the radio takes the byte at position 0. -/
theorem exec_writeReg_mapped {s : State} (h : s.Ready) {a : RegAddr} (ha : regName a ≠ .unmapped) (v : Byte) :
    exec (.writeReg a v) s
      = .next ((s.afterFrame (wcmd a) (sent (s.draws + 2) [v]) ((s.radio.writeAt s.cfg a 0 v).closed 1 [])).finished
          (commandWord (.writeReg a v)) .ok false) := by
  have hframe := opsRun_writeReg (.ofReady h (commandWord (.writeReg a v)) []) (src := .const v) ha rfl
  exact hostCommand_ready h (isEvent_writeRegOps a _) (by simp [commandBound]; omega) hframe

/-- READ_REG of any address (R141, R147): one frame, and the byte the radio answers goes to RDATA. -/
theorem exec_readReg {s : State} (h : s.Ready) (a : RegAddr) {b : Byte}
    (hb : (s.radio.readAt s.cfg a 0).getD (Config.freeByte (s.draws + 2)) = b) :
    exec (.readReg a) s
      = .next
          { (s.afterFrame (rcmd a) (received [b]) (s.radio.closed 1 [])).finished (commandWord (.readReg a)) .ok false with
            tmp := b
            rdata := b } := by
  have hframe := opsRun_readReg (.ofReady h (commandWord (.readReg a)) []) a hb
  exact hostCommand_ready h (isEvent_readRegOps a _) (by simp [commandBound]; omega) hframe

/-! ### A register read back -/

theorem Radio.readAt_writeAt_one (p : Params) {a : RegAddr} {i : Fin 7} (h : regName a = .one i) (v : Byte) (r : Radio) :
    (r.writeAt p a 0 v).readAt p a 0 = some (radioStore p a v) := by
  rw [Radio.writeAt_one p h]
  simp [Radio.readAt, h]

theorem Radio.readAt_writeAt_five (p : Params) {a : RegAddr} {j : Fin 7} (h : regName a = .five j) (v : Byte) (r : Radio) :
    (r.writeAt p a 0 v).readAt p a 0 = some v := by
  rw [Radio.writeAt_five p h]
  simp [Radio.readAt, h]

/-- READ_REG after WRITE_REG returns whatever byte the radio reads back at position 0 after taking the write. -/
theorem exec_readReg_after_writeReg {s : State} (h : s.Ready) {a : RegAddr} (ha : regName a ≠ .unmapped) {v b : Byte}
    (hb : (s.radio.writeAt s.cfg a 0 v).readAt s.cfg a 0 = some b) :
    ∃ t u, exec (.writeReg a v) s = .next t ∧ exec (.readReg a) t = .next u ∧ u.rdata = b := by
  have hknown : (s.radio.writeAt s.cfg a 0 v).radioUnknown = false := by
    obtain ⟨-, -, -, hk, -⟩ := h
    rw [Radio.writeAt_known s.cfg 0 v ha, hk]
  have hready := h.afterFrame_finished (wcmd a) (sent (s.draws + 2) [v]) 1 [] hknown (commandWord (.writeReg a v)) .ok false
  refine ⟨_, _, exec_writeReg_mapped h ha v, exec_readReg hready a (b := b) ?_, rfl⟩
  simp [State.finished, State.afterFrame, hb]

/-- Settles O14: the two commands are one frame each, and the radio reads back at position 0 what it stored there. -/
theorem readAfterWriteReturnsTheStoredByte : Obligations.ReadAfterWriteReturnsTheStoredByte := by
  intro s a v h
  refine ⟨fun ha => ?_, fun hlo hhi => ?_⟩
  · have hname : regName a = .one ⟨a.toNat, ha⟩ := regName_one rfl
    exact exec_readReg_after_writeReg h (by simp [hname]) (Radio.readAt_writeAt_one s.cfg hname v s.radio)
  · have hname : regName a = .five ⟨a.toNat - 0x0A, by omega⟩ := regName_five (by simp; omega)
    exact exec_readReg_after_writeReg h (by simp [hname]) (Radio.readAt_writeAt_five s.cfg hname v s.radio)

/-! ### The STATUS byte (R46) -/

/-- The three masks fill 0x70 (R8). -/
theorem flagMasks_or (p : Params) : txDsMask p ||| maxRtMask p ||| rxDrMask p = 0x70#8 := by
  unfold txDsMask maxRtMask rxDrMask
  cases p.flags <;> decide

/-- A mask of the STATUS byte takes each flag's contribution on its own. -/
theorem statusValue_and (p : Params) (r : Radio) (m : Byte) :
    statusValue p r &&& m
      = (if r.fTxDs then txDsMask p &&& m else 0#8) ||| (if r.fMaxRt then maxRtMask p &&& m else 0#8)
          ||| (if r.fRxDr then rxDrMask p &&& m else 0#8) := by
  simp only [statusValue, BitVec.and_or_distrib_right, apply_ite (· &&& m), BitVec.zero_and]

/-- Bits that no flag mask has read 0. -/
theorem statusValue_and_eq_zero (p : Params) (r : Radio) {m : Byte}
    (h : (txDsMask p ||| maxRtMask p ||| rxDrMask p) &&& m = 0#8) : statusValue p r &&& m = 0#8 := by
  simp only [BitVec.and_or_distrib_right, BitVec.or_eq_zero_iff] at h
  obtain ⟨⟨htx, hmax⟩, hrx⟩ := h
  simp [statusValue_and, htx, hmax, hrx]

/-- Settles O17: the masks are disjoint, so under one of them only its own flag is left. -/
theorem statusReadsTheFlags : Obligations.StatusReadsTheFlags := by
  intro p r
  refine ⟨?_, ?_, ?_, ?_, flagMasks_or p⟩
  · simp [statusValue_and, maxRtMask_and_txDsMask, rxDrMask_and_txDsMask]
  · simp [statusValue_and, txDsMask_and_maxRtMask, rxDrMask_and_maxRtMask]
  · simp [statusValue_and, txDsMask_and_rxDrMask, maxRtMask_and_rxDrMask]
  · exact statusValue_and_eq_zero p r (by rw [flagMasks_or]; decide)

end Sys2Proof.Machine

/-! What the agents' moves are made of, said once each: the fields the composite operations of the engine leave, and the cases of
an engine step, of a host step and of a move inside a running command. -/

namespace Sys2Proof.Machine

/-! ### Fields of the composite operations -/

section Fields

variable (s : State)

@[simp] theorem readDataByte_cfg (dst : ByteDest) : (readDataByte dst s).cfg = s.cfg := by cases dst <;> rfl
@[simp] theorem readDataByte_phase (dst : ByteDest) : (readDataByte dst s).phase = s.phase := by cases dst <;> rfl
@[simp] theorem readDataByte_seq (dst : ByteDest) : (readDataByte dst s).seq = s.seq := by cases dst <;> rfl
@[simp] theorem readDataByte_settleCnt (dst : ByteDest) : (readDataByte dst s).settleCnt = s.settleCnt := by
  cases dst <;> rfl
@[simp] theorem readDataByte_csN (dst : ByteDest) : (readDataByte dst s).csN = s.csN := by cases dst <;> rfl
@[simp] theorem readDataByte_ce (dst : ByteDest) : (readDataByte dst s).ce = s.ce := by cases dst <;> rfl
@[simp] theorem readDataByte_cmdw (dst : ByteDest) : (readDataByte dst s).cmdw = s.cmdw := by cases dst <;> rfl
@[simp] theorem readDataByte_busy (dst : ByteDest) : (readDataByte dst s).busy = s.busy := by cases dst <;> rfl
@[simp] theorem readDataByte_rvalid (dst : ByteDest) : (readDataByte dst s).rvalid = s.rvalid := by cases dst <;> rfl
@[simp] theorem readDataByte_rdata (dst : ByteDest) : (readDataByte dst s).rdata = s.rdata := by cases dst <;> rfl
@[simp] theorem readDataByte_addrl (dst : ByteDest) : (readDataByte dst s).addrl = s.addrl := by cases dst <;> rfl
@[simp] theorem readDataByte_txb (dst : ByteDest) : (readDataByte dst s).txb = s.txb := by cases dst <;> rfl
@[simp] theorem readDataByte_rxb_length (dst : ByteDest) : (readDataByte dst s).rxb.length = s.rxb.length := by
  cases dst <;> simp [readDataByte]
@[simp] theorem readDataByte_radio (dst : ByteDest) :
    (readDataByte dst s).radio = (s.react (Radio.onXfer s.cfg readFill)).radio := by cases dst <;> rfl
@[simp] theorem readDataByte_trace (dst : ByteDest) :
    (readDataByte dst s).trace = .xfer readFill s.misoByte :: s.trace := by cases dst <;> rfl
@[simp] theorem readDataByte_env (dst : ByteDest) : (readDataByte dst s).env = s.env := by cases dst <;> rfl

/-- The result code of an ending (R35). -/
def Ending.code : Ending → ResultCode
  | .flag _     => .ok
  | .data       => .ok
  | .ready      => .ok
  | .error code => code

@[simp] theorem endStep_cfg (e : Ending) : (endStep e s).cfg = s.cfg := by cases e <;> rfl
@[simp] theorem endStep_phase (e : Ending) : (endStep e s).phase = .idle := by cases e <;> rfl
@[simp] theorem endStep_seq_nil (e : Ending) : (endStep e s).seq = [] := by cases e <;> rfl
@[simp] theorem endStep_settleCnt (e : Ending) : (endStep e s).settleCnt = s.settleCnt := by cases e <;> rfl
@[simp] theorem endStep_pollCnt (e : Ending) : (endStep e s).pollCnt = s.pollCnt := by cases e <;> rfl
@[simp] theorem endStep_csN (e : Ending) : (endStep e s).csN = s.csN := by cases e <;> rfl
@[simp] theorem endStep_ce (e : Ending) : (endStep e s).ce = s.ce := by cases e <;> rfl
@[simp] theorem endStep_cmdw (e : Ending) : (endStep e s).cmdw = s.cmdw := by cases e <;> rfl
@[simp] theorem endStep_busy (e : Ending) : (endStep e s).busy = false := by cases e <;> rfl
@[simp] theorem endStep_rvalid (e : Ending) : (endStep e s).rvalid = true := by cases e <;> rfl
@[simp] theorem endStep_rcode (e : Ending) : (endStep e s).rcode = e.code := by cases e <;> rfl
@[simp] theorem endStep_addrl (e : Ending) : (endStep e s).addrl = s.addrl := by cases e <;> rfl
@[simp] theorem endStep_txb (e : Ending) : (endStep e s).txb = s.txb := by cases e <;> rfl
@[simp] theorem endStep_rxb (e : Ending) : (endStep e s).rxb = s.rxb := by cases e <;> rfl
@[simp] theorem endStep_radio (e : Ending) : (endStep e s).radio = s.radio := by cases e <;> rfl
@[simp] theorem endStep_trace (e : Ending) : (endStep e s).trace = s.trace := by cases e <;> rfl
@[simp] theorem endStep_env (e : Ending) : (endStep e s).env = s.env := by cases e <;> rfl

/-- Only READ_REG's ending writes RDATA (R37, R141). -/
theorem endStep_rdata {e : Ending} (h : e ≠ .data) : (endStep e s).rdata = s.rdata := by
  cases e with
  | data => exact absurd rfl h
  | _ => rfl

/-- An ending that is neither a success flag nor AVAILABLE's leaves RFLAG 0 (R36, R280). -/
theorem endStep_rflag {e : Ending} (hf : e ≠ .flag true) (hr : e ≠ .ready) : (endStep e s).rflag = false := by
  cases e with
  | flag b => exact Bool.eq_false_iff.2 fun hb => hf (congrArg Ending.flag hb)
  | data => rfl
  | ready => exact absurd rfl hr
  | error c => rfl

@[simp] theorem resetTick_cfg : (resetTick s).cfg = s.cfg := by unfold resetTick; split_ifs <;> rfl
@[simp] theorem resetTick_seq : (resetTick s).seq = s.seq := by unfold resetTick; split_ifs <;> rfl
@[simp] theorem resetTick_cmdw : (resetTick s).cmdw = s.cmdw := by unfold resetTick; split_ifs <;> rfl
@[simp] theorem resetTick_addrl : (resetTick s).addrl = s.addrl := by unfold resetTick; split_ifs <;> rfl
@[simp] theorem resetTick_txb : (resetTick s).txb = s.txb := by unfold resetTick; split_ifs <;> rfl
@[simp] theorem resetTick_radio : (resetTick s).radio = s.radio := by unfold resetTick; split_ifs <;> rfl
@[simp] theorem resetTick_env : (resetTick s).env = s.env := by unfold resetTick; split_ifs <;> rfl

/-- The lines after a reset step, each moved only where it has to (R311, D36). -/
def resetLines (s : State) : State :=
  let s := if s.csN then s else driveCS true s
  if s.ce then driveCE false s else s

theorem resetLines_eq :
    resetLines s = (if s.ce then driveCE false else id) ((if s.csN then id else driveCS true) s) := by
  cases hcs : s.csN <;> cases hce : s.ce <;> simp [resetLines, hcs, hce]

@[simp] theorem resetLines_cfg : (resetLines s).cfg = s.cfg := by rw [resetLines_eq]; split_ifs <;> rfl
@[simp] theorem resetLines_csN : (resetLines s).csN = true := by
  cases hcs : s.csN <;> cases hce : s.ce <;> simp [resetLines, hcs, hce]
@[simp] theorem resetLines_ce : (resetLines s).ce = false := by
  cases hcs : s.csN <;> cases hce : s.ce <;> simp [resetLines, hcs, hce]
@[simp] theorem resetLines_addrl : (resetLines s).addrl = s.addrl := by rw [resetLines_eq]; split_ifs <;> rfl
@[simp] theorem resetLines_txb : (resetLines s).txb = s.txb := by rw [resetLines_eq]; split_ifs <;> rfl
@[simp] theorem resetLines_rxb : (resetLines s).rxb = s.rxb := by rw [resetLines_eq]; split_ifs <;> rfl
@[simp] theorem resetLines_env : (resetLines s).env = s.env := by rw [resetLines_eq]; split_ifs <;> rfl

@[simp] theorem resetStep_cfg : (resetStep s).cfg = s.cfg := resetLines_cfg s
@[simp] theorem resetStep_phase : (resetStep s).phase = .resetSettle := rfl
@[simp] theorem resetStep_seq : (resetStep s).seq = [] := rfl
@[simp] theorem resetStep_settleCnt : (resetStep s).settleCnt = s.cfg.settleTicks := by
  rw [← resetLines_cfg]; rfl
@[simp] theorem resetStep_pollCnt : (resetStep s).pollCnt = 0 := rfl
@[simp] theorem resetStep_csN : (resetStep s).csN = true := resetLines_csN s
@[simp] theorem resetStep_ce : (resetStep s).ce = false := resetLines_ce s
@[simp] theorem resetStep_busy : (resetStep s).busy = true := rfl
@[simp] theorem resetStep_rvalid : (resetStep s).rvalid = false := rfl
@[simp] theorem resetStep_addrl : (resetStep s).addrl = s.addrl := resetLines_addrl s
@[simp] theorem resetStep_txb : (resetStep s).txb = s.txb := resetLines_txb s
@[simp] theorem resetStep_rxb : (resetStep s).rxb = s.rxb := resetLines_rxb s
@[simp] theorem resetStep_radio : (resetStep s).radio = (resetLines s).radio := rfl
@[simp] theorem resetStep_env : (resetStep s).env = s.env := resetLines_env s

end Fields

/-! ### The cases of each agent's move -/

/-- A write-direction data byte that is sent is one exchange (R133). -/
theorem primitive_out {src : ByteSource} {s t : State} (h : primitive (.out src) s = .next t) : ∃ b, t = xfer b s := by
  simp only [primitive] at h
  split at h
  · next b _ => cases h; exact ⟨b, rfl⟩
  · cases h

/-- What one step of the engine can be (R31). -/
theorem engineStep_cases {s t : State} (h : engineStep s = .next t) :
    (s.phase = .idle ∧ t = s)
    ∨ (s.phase = .resetSettle ∧ t = resetTick s)
    ∨ (s.phase = .run ∧ s.settleCnt ≠ 0 ∧ t = settleTick s)
    ∨ (s.phase = .run ∧ s.settleCnt = 0 ∧ ∃ op k, resolve s = op :: k ∧ primitive op (s.withSeq k) = .next t)
    ∨ (s.phase = .run ∧ s.settleCnt = 0 ∧ resolve s = [] ∧ t = s) := by
  unfold engineStep at h
  split at h
  · next hp => cases h; exact .inl ⟨hp, rfl⟩
  · next hp => cases h; exact .inr (.inl ⟨hp, rfl⟩)
  · next hp =>
    split_ifs at h with h0
    · unfold microStep at h
      split at h
      · next op k hr => exact .inr (.inr (.inr (.inl ⟨hp, h0, op, k, hr, h⟩)))
      · next hr => cases h; exact .inr (.inr (.inr (.inr ⟨hp, h0, hr, rfl⟩)))
    · cases h; exact .inr (.inr (.inl ⟨hp, h0, rfl⟩))

/-- An event primitive and the end step leave the parameters, the schedule, the pending word and the host's latches (R31, R39). -/
theorem primitive_frame {op : MicroOp} {s t : State} (h : primitive op s = .next t) :
    t.cfg = s.cfg ∧ t.env = s.env ∧ t.cmdw = s.cmdw ∧ t.addrl = s.addrl ∧ t.txb = s.txb := by
  cases op with
  | driveCS l => cases h; exact ⟨rfl, rfl, rfl, rfl, rfl⟩
  | driveCE l => cases h; exact ⟨rfl, rfl, rfl, rfl, rfl⟩
  | cmd c => cases h; exact ⟨rfl, rfl, rfl, rfl, rfl⟩
  | out src => obtain ⟨b, rfl⟩ := primitive_out h; exact ⟨rfl, rfl, rfl, rfl, rfl⟩
  | read dst => cases h; simp
  | pollLoop => cases h; exact ⟨rfl, rfl, rfl, rfl, rfl⟩
  | pollTest => cases h; exact ⟨rfl, rfl, rfl, rfl, rfl⟩
  | finish e => cases h; simp

/-- A step of the engine leaves the parameters, the schedule, the pending word and the host's latches (R31, R39). -/
theorem engineStep_frame {s t : State} (h : engineStep s = .next t) :
    t.cfg = s.cfg ∧ t.env = s.env ∧ t.cmdw = s.cmdw ∧ t.addrl = s.addrl ∧ t.txb = s.txb := by
  obtain ⟨-, rfl⟩ | ⟨-, rfl⟩ | ⟨-, -, rfl⟩ | ⟨-, -, op, k, -, ht⟩ | ⟨-, -, -, rfl⟩ := engineStep_cases h
  · exact ⟨rfl, rfl, rfl, rfl, rfl⟩
  · simp
  · exact ⟨rfl, rfl, rfl, rfl, rfl⟩
  · exact primitive_frame (s := s.withSeq k) ht
  · exact ⟨rfl, rfl, rfl, rfl, rfl⟩

/-- A read of a host register changes what the host has got and nothing else (R32, R290). -/
theorem hostRead_cases {r : HostReg} {s t : State} (h : hostRead r s = .next t) : ∃ b, t = { s with hostData := b } := by
  have hresult : ∀ b, readResult b s = .next t → ∃ b, t = { s with hostData := b } := by
    intro b h
    unfold readResult at h
    split_ifs at h
    cases h
    exact ⟨b, rfl⟩
  cases r with
  | cmdw => cases h
  | rcode => exact hresult _ h
  | rflag => exact hresult _ h
  | rdata => exact hresult _ h
  | latch name i =>
    simp only [hostRead, readLatch] at h
    split at h <;> cases h
    exact ⟨_, rfl⟩
  | busy => cases h; exact ⟨_, rfl⟩
  | rvalid => cases h; exact ⟨_, rfl⟩
  | lstat => cases h; exact ⟨_, rfl⟩
  | csN => cases h; exact ⟨_, rfl⟩
  | ce => cases h; exact ⟨_, rfl⟩

/-- What a step of the host can be (R299). -/
theorem hostStep_cases {h : HostStep} {s t : State} (ht : hostStep h s = .next t) :
    (h = .await ∧ t = s)
    ∨ (∃ w, h = .issue w ∧ t = { s with cmdw := some w })
    ∨ (∃ i b, h = .writeAddrl i b ∧ t = { s with addrl := s.addrl.setIfInBounds i (some b) })
    ∨ (∃ i b, h = .writeTxb i b ∧ t = { s with txb := s.txb.set i (some b) })
    ∨ (∃ r b, h = .read r ∧ t = { s with hostData := b }) := by
  cases h with
  | await => cases ht; exact .inl ⟨rfl, rfl⟩
  | issue w => cases ht; exact .inr (.inl ⟨w, rfl, rfl⟩)
  | writeAddrl i b =>
    simp only [hostStep] at ht
    split_ifs at ht
    cases ht
    exact .inr (.inr (.inl ⟨i, b, rfl, rfl⟩))
  | writeTxb i b =>
    simp only [hostStep] at ht
    split_ifs at ht
    cases ht
    exact .inr (.inr (.inr (.inl ⟨i, b, rfl, rfl⟩)))
  | read r =>
    obtain ⟨b, rfl⟩ := hostRead_cases ht
    exact .inr (.inr (.inr (.inr ⟨r, b, rfl, rfl⟩)))

/-- Inside a running command the host can do nothing but read (R33, R87). -/
theorem hostStep_run_cases {h : HostStep} {s t : State} (hp : s.phase = .run) (hen : hostEnabled h s = true) {u : State}
    (ht : hostStep h u = .next t) : ∃ b, t = { u with hostData := b } := by
  obtain ⟨rfl, -⟩ | ⟨w, rfl, -⟩ | ⟨i, b, rfl, -⟩ | ⟨i, b, rfl, -⟩ | ⟨r, b, -, rfl⟩ := hostStep_cases ht
  · simp [hostEnabled, hp] at hen
  · simp [hostEnabled, hp] at hen
  · simp [hostEnabled, hp] at hen
  · simp [hostEnabled, hp] at hen
  · exact ⟨b, rfl⟩

/-- What one move inside a running command can be (R83). -/
theorem move_run_cases {s t : State} (hp : s.phase = .run) (h : move s = .next t) :
    (∃ e, (s.env = e ∨ ∃ x, s.env = x :: e) ∧ engineStep (s.withEnv e) = .next t)
    ∨ (∃ e, s.env = .reset :: e ∧ t = resetStep (s.withEnv e))
    ∨ (∃ x e, s.env = .rf x :: e ∧ t = (s.withEnv e).react (rfStep s.cfg x))
    ∨ (∃ x e b, s.env = x :: e ∧ t = { s.withEnv e with hostData := b }) := by
  unfold move scheduled at h
  split at h
  · exact .inl ⟨s.env, .inl rfl, h⟩
  · next e he => exact .inl ⟨e, .inr ⟨_, he⟩, h⟩
  · next e he => cases h; exact .inr (.inl ⟨e, he, rfl⟩)
  · next x e he => cases h; exact .inr (.inr (.inl ⟨x, e, he, rfl⟩))
  · next x e he =>
    split_ifs at h with hen
    · obtain ⟨b, rfl⟩ := hostStep_run_cases hp hen h
      exact .inr (.inr (.inr ⟨_, e, b, he, rfl⟩))
    · exact .inl ⟨s.env, .inl rfl, h⟩

end Sys2Proof.Machine

/-! The invariant of the machine: every agent's move and every accept keeps it. -/

namespace Sys2Proof.Machine

/-! ### What the radio's reactions do to its view of the lines (R47, R49) -/

/-- A radio that is known after a reaction was known before it, and the reaction was the one named (R51). -/
theorem react_radio_of_known {s : State} {f : Radio → Radio} (h : (s.react f).radio.radioUnknown = false) :
    s.radio.radioUnknown = false ∧ (s.react f).radio = f s.radio := by
  by_cases hu : (f s.radio).radioUnknown || s.radio.radioUnknown
  · simp [State.react, hu] at h
  · simp only [Bool.or_eq_true, not_or, Bool.not_eq_true] at hu
    exact ⟨hu.2, react_radio_known hu.2 hu.1⟩

@[simp] theorem Radio.writeAt_inFrame (p : Params) (a : RegAddr) (k : Nat) (m : Byte) (r : Radio) :
    (r.writeAt p a k m).inFrame = r.inFrame := by
  unfold Radio.writeAt
  split
  · split_ifs <;> rfl
  · split_ifs <;> rfl
  · rfl
  · rfl

@[simp] theorem Radio.writeAt_ceSeen (p : Params) (a : RegAddr) (k : Nat) (m : Byte) (r : Radio) :
    (r.writeAt p a k m).ceSeen = r.ceSeen := by
  unfold Radio.writeAt
  split
  · split_ifs <;> rfl
  · split_ifs <;> rfl
  · rfl
  · rfl

@[simp] theorem Radio.onCommand_inFrame (m : Byte) (r : Radio) : (r.onCommand m).inFrame = r.inFrame := by
  unfold Radio.onCommand; split <;> rfl

@[simp] theorem Radio.onCommand_ceSeen (m : Byte) (r : Radio) : (r.onCommand m).ceSeen = r.ceSeen := by
  unfold Radio.onCommand; split <;> rfl

@[simp] theorem Radio.onXfer_inFrame (p : Params) (m : Byte) (r : Radio) : (r.onXfer p m).inFrame = r.inFrame := by
  unfold Radio.onXfer; split_ifs
  · split <;> simp
  · rfl

@[simp] theorem Radio.onXfer_ceSeen (p : Params) (m : Byte) (r : Radio) : (r.onXfer p m).ceSeen = r.ceSeen := by
  unfold Radio.onXfer; split_ifs
  · split <;> simp
  · rfl

@[simp] theorem Radio.onCS_ceSeen (l : Bool) (r : Radio) : (r.onCS l).ceSeen = r.ceSeen := by
  unfold Radio.onCS; split <;> rfl

theorem Radio.onCS_inFrame {l : Bool} {r : Radio} (h : r.inFrame = l) : (r.onCS l).inFrame = !l := by
  cases l <;> simp [Radio.onCS, h]

@[simp] theorem Radio.onCE_inFrame (l : Bool) (r : Radio) : (r.onCE l).inFrame = r.inFrame := by cases l <;> rfl

@[simp] theorem Radio.onCE_ceSeen (l : Bool) (r : Radio) : (r.onCE l).ceSeen = l := by cases l <;> rfl

@[simp] theorem rfEffect_inFrame (p : Params) (x : RfStep) (r : Radio) : (rfEffect p x r).inFrame = r.inFrame := by
  cases x <;> rfl

@[simp] theorem rfEffect_ceSeen (p : Params) (x : RfStep) (r : Radio) : (rfEffect p x r).ceSeen = r.ceSeen := by
  cases x <;> rfl

@[simp] theorem rfStep_inFrame (p : Params) (x : RfStep) (r : Radio) : (rfStep p x r).inFrame = r.inFrame := by
  unfold rfStep; split_ifs <;> simp

@[simp] theorem rfStep_ceSeen (p : Params) (x : RfStep) (r : Radio) : (rfStep p x r).ceSeen = r.ceSeen := by
  unfold rfStep; split_ifs <;> simp

/-- A known radio sees the block's lines (R47, R49, R54). -/
def State.LinesSeen (s : State) : Prop :=
  s.radio.radioUnknown = false → s.radio.inFrame = !s.csN ∧ s.radio.ceSeen = s.ce

/-- A reaction that follows the lines lets the radio see them. -/
theorem State.LinesSeen.react {s t : State} {f : Radio → Radio} (h : s.LinesSeen) (ht : t.radio = (s.react f).radio)
    (hf : s.radio.inFrame = !s.csN → s.radio.ceSeen = s.ce →
      (f s.radio).inFrame = !t.csN ∧ (f s.radio).ceSeen = t.ce) : t.LinesSeen := by
  intro hk
  rw [ht] at hk ⊢
  obtain ⟨hs, hr⟩ := react_radio_of_known hk
  rw [hr]
  exact hf (h hs).1 (h hs).2

theorem State.LinesSeen.driveCS {s : State} (h : s.LinesSeen) {l : Bool} (hl : s.csN = !l) : (driveCS l s).LinesSeen :=
  h.react rfl fun hin hce => ⟨Radio.onCS_inFrame (by rw [hin, hl, Bool.not_not]), by simpa using hce⟩

theorem State.LinesSeen.driveCE {s : State} (h : s.LinesSeen) (l : Bool) : (driveCE l s).LinesSeen :=
  h.react rfl fun hin _ => ⟨by simpa using hin, by simp⟩

theorem State.LinesSeen.xfer {s : State} (h : s.LinesSeen) (m : Byte) : (xfer m s).LinesSeen :=
  h.react rfl fun hin hce => ⟨by simpa using hin, by simpa using hce⟩

theorem State.LinesSeen.readDataByte {s : State} (h : s.LinesSeen) (dst : ByteDest) : (readDataByte dst s).LinesSeen :=
  h.react (readDataByte_radio s dst) fun hin hce => ⟨by simpa using hin, by simpa using hce⟩

theorem State.LinesSeen.rf {s : State} (h : s.LinesSeen) (x : RfStep) : (s.react (rfStep s.cfg x)).LinesSeen :=
  h.react rfl fun hin hce => ⟨by simpa using hin, by simpa using hce⟩

theorem State.LinesSeen.resetLines {s : State} (h : s.LinesSeen) : (resetLines s).LinesSeen := by
  have hce : ∀ u : State, u.LinesSeen → (if u.ce then Machine.driveCE false u else u).LinesSeen := by
    intro u hu
    split_ifs
    · exact hu.driveCE false
    · exact hu
  have hcs : (if s.csN then s else Machine.driveCS true s).LinesSeen := by
    split_ifs with hl
    · exact h
    · exact h.driveCS (by simpa using hl)
  exact hce _ hcs

/-! ### The position the engine resolves to (R22) -/

@[simp] theorem pollReads_cons_poll (k : List MicroOp) : pollReads (.read .poll :: k) = pollReads k + 1 := rfl

theorem pollReads_eq_count (ops : List MicroOp) : pollReads ops = ops.count (.read .poll) := by
  induction ops with
  | nil => rfl
  | cons op k ih =>
    cases op with
    | read dst => cases dst <;> simp [pollReads, ih]
    | _ => simp [pollReads, ih]

theorem endsHere_eq {k : List MicroOp} (h : endsHere k = true) : ∃ e, k = [.finish e] := by
  unfold endsHere at h
  split at h
  · exact ⟨_, rfl⟩
  · cases h

/-- The three ways on from a test of the poll loop (R234-R237, R239), with the test itself where none is at hand. -/
theorem resolve_cases (s : State) :
    (resolve s = s.seq)
    ∨ ∃ k, (s.seq = .pollLoop :: k ∨ s.seq = .pollTest :: k)
      ∧ (resolve s = k
        ∨ (s.pollCnt < s.cfg.pollMax ∧ resolve s = readRegOps 0x07#5 .poll ++ .pollTest :: k)
        ∨ ∃ mask b, resolve s = pollResolved mask b) := by
  have hagain : ∀ k, pollAgain s k = k
      ∨ (s.pollCnt < s.cfg.pollMax ∧ pollAgain s k = readRegOps 0x07#5 .poll ++ .pollTest :: k) := by
    intro k
    unfold pollAgain
    split_ifs with hlt
    · exact .inr ⟨hlt, rfl⟩
    · exact .inl rfl
  unfold resolve
  split
  · next k hs => exact .inr ⟨k, .inl hs, (hagain k).imp_right .inl⟩
  · next k hs =>
    refine .inr ⟨k, .inr hs, ?_⟩
    split_ifs
    · exact .inr (.inr ⟨_, _, rfl⟩)
    · exact .inr (.inr ⟨_, _, rfl⟩)
    · exact (hagain k).imp_right .inl
  · exact .inl rfl

/-- In a well framed procedure the poll loop stands outside a frame, with the end step after it (R230). -/
theorem framed_poll {csN : Bool} {ops k : List MicroOp} (h : framed csN ops = true)
    (hs : ops = .pollLoop :: k ∨ ops = .pollTest :: k) :
    csN = true ∧ ∃ e, k = [.finish e] := by
  obtain rfl | rfl := hs <;>
  · simp only [framed, Bool.and_eq_true] at h
    exact ⟨h.1, endsHere_eq h.2⟩

/-- What the engine resolves to is as well framed as the procedure, and holds no poll past POLL_MAX (R25, R131). -/
theorem resolve_framed {s : State} (hf : framed s.csN s.seq = true) (hn : s.pollCnt + pollReads s.seq ≤ s.cfg.pollMax) :
    framed s.csN (resolve s) = true ∧ s.pollCnt + pollReads (resolve s) ≤ s.cfg.pollMax := by
  obtain hr | ⟨k, hk, hway⟩ := resolve_cases s
  · rw [hr]; exact ⟨hf, hn⟩
  · obtain ⟨hcs, e, rfl⟩ := framed_poll hf hk
    have h0 : s.pollCnt ≤ s.cfg.pollMax := by omega
    obtain hr | ⟨hlt, hr⟩ | ⟨mask, b, hr⟩ := hway
    · rw [hr]; exact ⟨hcs, h0⟩
    · rw [hr, hcs]; exact ⟨rfl, hlt⟩
    · rw [hr, hcs]; exact ⟨rfl, h0⟩

/-! ### The engine's step -/

/-- RVALID is 0 outside IDLE (R34). -/
theorem State.Inv.not_rvalid {s : State} (h : s.Inv) (hp : s.phase ≠ .idle) : s.rvalid = false :=
  Bool.eq_false_iff.2 fun hv => hp (h.rvalid hv)

/-- A move that lets the command run on: what has to be shown of the state after it. -/
theorem State.Inv.runsOn {s t : State} (h : s.Inv) (hp : s.phase = .run) (hphase : t.phase = s.phase)
    (hbusy : t.busy = s.busy) (hrvalid : t.rvalid = s.rvalid) (hsettle : t.settleCnt ≤ t.cfg.settleTicks)
    (hframed : framed t.csN t.seq = true) (hpolls : t.pollCnt + pollReads t.seq ≤ t.cfg.pollMax)
    (hlatches : t.txb.length = t.cfg.payloadMax ∧ t.rxb.length = t.cfg.payloadMax) (hlines : t.LinesSeen) : t.Inv where
  released hne := absurd (hphase.trans hp) hne
  busy := by rw [hbusy, hphase, h.busy]
  rvalid hv := by rw [hrvalid, h.not_rvalid (by simp [hp])] at hv; cases hv
  settle := ⟨hsettle, by simp [hphase, hp]⟩
  procedure := by simpa [hphase, hp] using hframed
  polls := hpolls
  latches := hlatches
  lines := hlines

/-- An event primitive or the end step, at the head of what is left of a well framed procedure. -/
theorem State.Inv.primitive {s t : State} (h : s.Inv) (hp : s.phase = .run) (h0 : s.settleCnt = 0) {op : MicroOp}
    {k : List MicroOp} (hf : framed s.csN (op :: k) = true) (hn : s.pollCnt + pollReads (op :: k) ≤ s.cfg.pollMax)
    (ht : primitive op (s.withSeq k) = .next t) : t.Inv := by
  have hle : s.settleCnt ≤ s.cfg.settleTicks := h.settle.1
  have hlines : (s.withSeq k).LinesSeen := h.lines
  cases op with
  | driveCS l =>
    cases ht
    simp only [framed, Bool.and_eq_true, beq_iff_eq] at hf
    exact h.runsOn hp rfl rfl rfl le_rfl hf.2 hn h.latches (hlines.driveCS hf.1)
  | driveCE l =>
    cases ht
    simp only [framed, Bool.and_eq_true] at hf
    exact h.runsOn hp rfl rfl rfl le_rfl hf.2 hn h.latches (hlines.driveCE l)
  | cmd c =>
    cases ht
    simp only [framed, Bool.and_eq_true] at hf
    exact h.runsOn hp rfl rfl rfl hle hf.2 hn h.latches (hlines.xfer c)
  | out src =>
    obtain ⟨b, rfl⟩ := primitive_out ht
    simp only [framed, Bool.and_eq_true] at hf
    exact h.runsOn hp rfl rfl rfl hle hf.2 hn h.latches (hlines.xfer b)
  | read dst =>
    cases ht
    simp only [framed, Bool.and_eq_true] at hf
    refine h.runsOn hp (by simp) (by simp) (by simp) (by simpa using hle) (by simpa using hf.2) ?_
      (by simpa using h.latches) (hlines.readDataByte dst)
    cases dst with
    | poll => simp only [pollReads_cons_poll] at hn; simp [readDataByte]; omega
    | tmp => exact hn
    | rxb i => exact hn
  | pollLoop =>
    cases ht
    simp only [framed, Bool.and_eq_true] at hf
    obtain ⟨e, rfl⟩ := endsHere_eq hf.2
    exact h.runsOn hp rfl rfl rfl hle hf.1 hn h.latches hlines
  | pollTest =>
    cases ht
    simp only [framed, Bool.and_eq_true] at hf
    obtain ⟨e, rfl⟩ := endsHere_eq hf.2
    exact h.runsOn hp rfl rfl rfl hle hf.1 hn h.latches hlines
  | finish e =>
    cases ht
    have hcs : s.csN = true := hf
    have hcnt : s.pollCnt ≤ s.cfg.pollMax := by omega
    exact {
      released := fun _ => by simpa using hcs
      busy := by simp
      rvalid := fun _ => by simp
      settle := by simp [h0]
      procedure := by simp
      polls := by simpa [pollReads] using hcnt
      latches := by simpa using h.latches
      lines := by simpa [State.LinesSeen] using hlines }

/-- A step of RESET_SETTLE (R312). -/
theorem State.Inv.resetTick {s : State} (h : s.Inv) (hp : s.phase = .resetSettle) : (resetTick s).Inv := by
  have hcs : s.csN = true := h.released (by simp [hp])
  have hseq : s.seq = [] := by simpa [hp] using h.procedure
  obtain ⟨hle, -⟩ := h.settle
  unfold Machine.resetTick
  split_ifs with h0 h1
  · exact ⟨fun _ => hcs, rfl, fun _ => rfl, ⟨hle, fun _ => h0⟩, hseq, h.polls, h.latches, h.lines⟩
  · exact ⟨fun _ => hcs, rfl, fun _ => rfl, ⟨by simp [h1], by simp [h1]⟩, hseq, h.polls, h.latches, h.lines⟩
  · exact ⟨fun _ => hcs, h.busy, h.rvalid, ⟨by simp; omega, by simp [hp]⟩, h.procedure, h.polls, h.latches, h.lines⟩

/-- The engine's step keeps the invariant. -/
theorem State.Inv.engineStep {s t : State} (h : s.Inv) (ht : engineStep s = .next t) : t.Inv := by
  obtain ⟨-, rfl⟩ | ⟨hp, rfl⟩ | ⟨hp, h0, rfl⟩ | ⟨hp, h0, op, k, hr, ht⟩ | ⟨-, -, -, rfl⟩ := engineStep_cases ht
  · exact h
  · exact h.resetTick hp
  · have hproc : framed s.csN s.seq = true := by simpa [hp] using h.procedure
    obtain ⟨hle, -⟩ := h.settle
    exact h.runsOn hp rfl rfl rfl (by simp; omega) hproc h.polls h.latches h.lines
  · have hproc : framed s.csN s.seq = true := by simpa [hp] using h.procedure
    obtain ⟨hf, hn⟩ := resolve_framed hproc h.polls
    rw [hr] at hf hn
    exact h.primitive hp h0 hf hn ht
  · exact h

/-! ### The other agents -/

theorem State.Inv.withEnv {s : State} (h : s.Inv) (e : List EnvStep) : (s.withEnv e).Inv :=
  ⟨h.released, h.busy, h.rvalid, h.settle, h.procedure, h.polls, h.latches, h.lines⟩

/-- A step of RF (R292). -/
theorem State.Inv.rf {s : State} (h : s.Inv) (x : RfStep) : (s.react (rfStep s.cfg x)).Inv :=
  ⟨h.released, h.busy, h.rvalid, h.settle, h.procedure, h.polls, h.latches, State.LinesSeen.rf h.lines x⟩

/-- A step of the host (R299). -/
theorem State.Inv.hostStep {s t : State} (h : s.Inv) {x : HostStep} (ht : hostStep x s = .next t) : t.Inv := by
  obtain ⟨-, rfl⟩ | ⟨w, -, rfl⟩ | ⟨i, b, -, rfl⟩ | ⟨i, b, -, rfl⟩ | ⟨r, b, -, rfl⟩ := hostStep_cases ht
  · exact h
  · exact ⟨h.released, h.busy, h.rvalid, h.settle, h.procedure, h.polls, h.latches, h.lines⟩
  · exact ⟨h.released, h.busy, h.rvalid, h.settle, h.procedure, h.polls, h.latches, h.lines⟩
  · exact ⟨h.released, h.busy, h.rvalid, h.settle, h.procedure, h.polls, by simpa using h.latches, h.lines⟩
  · exact ⟨h.released, h.busy, h.rvalid, h.settle, h.procedure, h.polls, h.latches, h.lines⟩

/-- A reset step (R311). -/
theorem State.Inv.resetStep {s : State} (h : s.Inv) : (resetStep s).Inv where
  released _ := resetStep_csN s
  busy := rfl
  rvalid hv := by simp at hv
  settle := by simp
  procedure := rfl
  polls := Nat.zero_le _
  latches := by simpa using h.latches
  lines := by simpa [State.LinesSeen] using State.LinesSeen.resetLines h.lines

/-! ### Accepting a command -/

@[simp] theorem framed_outs (l : List ByteSource) (k : List MicroOp) : framed false (l.map .out ++ k) = framed false k := by
  induction l with
  | nil => rfl
  | cons a l ih => exact ih

@[simp] theorem framed_reads (l : List ByteDest) (k : List MicroOp) : framed false (l.map .read ++ k) = framed false k := by
  induction l with
  | nil => rfl
  | cons a l ih => exact ih

/-- A frame opens and closes itself (R130, R131). -/
@[simp] theorem framed_frameOps (c : Byte) (outs : List ByteSource) (dsts : List ByteDest) (k : List MicroOp) :
    framed true (frameOps c outs dsts ++ k) = framed true k := by
  simp [frameOps, framed]

@[simp] theorem framed_writeRegOps (a : RegAddr) (outs : List ByteSource) (k : List MicroOp) :
    framed true (writeRegOps a outs ++ k) = framed true k := framed_frameOps _ _ _ _

@[simp] theorem framed_readRegOps (a : RegAddr) (dst : ByteDest) (k : List MicroOp) :
    framed true (readRegOps a dst ++ k) = framed true k := framed_frameOps _ _ _ _

/-- Every host command's procedure is well framed (R131). -/
theorem framed_procedureOf (p : Params) {i : Instr} {w : Word} (hi : encode i = .host w) :
    framed true (procedureOf p i) = true := by
  cases i with
  | rRegister | wRegister | wTxPayload | rRxPayload => cases hi
  | openReadingPipe v =>
    simp only [procedureOf, procOpenReadingPipe]
    split <;> simp [framed]
  | writePayload len =>
    simp only [procedureOf, procWritePayload]
    split_ifs <;> simp [framed, endsHere]
  | readPayload len =>
    simp only [procedureOf, procReadPayload]
    split_ifs <;> simp [framed]
  | beginRadio => rfl
  | _ =>
    simp [procedureOf, procWriteReg, procReadReg, procSetChannel, procSetPaLevel, procOpenWritingPipe, procStartListening,
      procStopListening, procAvailable, framed]

end Sys2Proof.Machine

/-! Which positions a command can come to, and the rule for what its run keeps in any environment. -/

namespace Sys2Proof.Machine

/-! ### The positions of each command -/

/-- The endings a host command can come to (R35, R36, R280). -/
def endingsOf (p : Params) : Instr → List Ending
  | .rRegister _ | .wRegister _ | .wTxPayload | .rRxPayload => []
  | .readReg _ => [.data]
  | .available => [.ready]
  | .openReadingPipe v => [if 5#8 < v then .error .errPipe else .flag false]
  | .writePayload len => if p.payloadMax < len.toNat then [.error .errLen] else [.flag true, .flag false]
  | .readPayload len => [if p.payloadMax < len.toNat then .error .errLen else .flag false]
  | .writeReg _ _ | .beginRadio | .setChannel _ | .setPaLevel _ | .openWritingPipe | .startListening | .stopListening =>
    [.flag false]

/-- What a host command may do at some position it can come to: RXB is read into by READ_PAYLOAD below its length, polls are
WRITE_PAYLOAD's, and the ending is one of the command's. -/
def mayDo (p : Params) (i : Instr) : MicroOp → Prop
  | .driveCS _ | .driveCE _ | .cmd _ | .out _ | .read .tmp => True
  | .read (.rxb j) => ∃ len, i = .readPayload len ∧ j < len.toNat
  | .read .poll | .pollLoop | .pollTest => ∃ len, i = .writePayload len ∧ len.toNat ≤ p.payloadMax
  | .finish e => e ∈ endingsOf p i

/-- The positions of a frame. -/
theorem mem_frameOps {c : Byte} {outs : List ByteSource} {dsts : List ByteDest} {op : MicroOp} :
    op ∈ frameOps c outs dsts
      ↔ op = .driveCS false ∨ op = .cmd c ∨ (∃ src ∈ outs, .out src = op) ∨ (∃ dst ∈ dsts, .read dst = op)
        ∨ op = .driveCS true := by
  simp [frameOps]

/-- A command may run every frame whose reads it may make. -/
theorem mayDo_frameOps {p : Params} {i : Instr} {c : Byte} {outs : List ByteSource} {dsts : List ByteDest}
    (hd : ∀ dst ∈ dsts, mayDo p i (.read dst)) {op : MicroOp} (h : op ∈ frameOps c outs dsts) : mayDo p i op := by
  obtain rfl | rfl | ⟨src, -, rfl⟩ | ⟨dst, hdst, rfl⟩ | rfl := mem_frameOps.1 h
  · trivial
  · trivial
  · trivial
  · exact hd dst hdst
  · trivial

theorem mayDo_writeRegOps {p : Params} {i : Instr} {a : RegAddr} {outs : List ByteSource} {op : MicroOp}
    (h : op ∈ writeRegOps a outs) : mayDo p i op :=
  mayDo_frameOps (fun _ hd => by cases hd) h

theorem mayDo_readRegOps {p : Params} {i : Instr} {a : RegAddr} {op : MicroOp} (h : op ∈ readRegOps a .tmp) : mayDo p i op :=
  mayDo_frameOps (fun dst hd => by rw [List.mem_singleton.1 hd]; trivial) h

/-- A write frame with its end step, the form of most commands. -/
theorem mayDo_writeThenFinish {p : Params} {i : Instr} {a : RegAddr} {outs : List ByteSource} {e : Ending}
    (he : e ∈ endingsOf p i) : ∀ op ∈ writeRegOps a outs ++ [.finish e], mayDo p i op := by
  intro op h
  obtain h | h := List.mem_append.1 h
  · exact mayDo_writeRegOps h
  · rw [List.mem_singleton.1 h]; exact he

/-- Every position of a host command's procedure is one the command may come to. -/
theorem mayDo_procedureOf (p : Params) (i : Instr) : ∀ op ∈ procedureOf p i, mayDo p i op := by
  have hfinish : ∀ {e : Ending}, e ∈ endingsOf p i → mayDo p i (.finish e) := id
  cases i with
  | rRegister | wRegister | wTxPayload | rRxPayload => intro op h; cases h
  | writeReg a v => exact mayDo_writeThenFinish (List.mem_singleton.2 rfl)
  | setChannel v => exact mayDo_writeThenFinish (List.mem_singleton.2 rfl)
  | openWritingPipe => exact mayDo_writeThenFinish (List.mem_singleton.2 rfl)
  | readReg a =>
    intro op h
    simp only [procedureOf, procReadReg, List.mem_append, List.mem_singleton] at h
    obtain h | rfl := h
    · exact mayDo_readRegOps h
    · exact hfinish (by simp [endingsOf])
  | available =>
    intro op h
    simp only [procedureOf, procAvailable, List.mem_append, List.mem_singleton] at h
    obtain h | rfl := h
    · exact mayDo_readRegOps h
    · exact hfinish (by simp [endingsOf])
  | beginRadio =>
    intro op h
    simp only [procedureOf, procBegin, List.mem_cons, List.mem_append, List.mem_flatMap, List.not_mem_nil, or_false] at h
    obtain (rfl | ⟨row, -, h⟩) | rfl := h
    · trivial
    · exact mayDo_writeRegOps h
    · exact hfinish (by simp [endingsOf])
  | setPaLevel v =>
    intro op h
    simp only [procedureOf, procSetPaLevel, List.mem_append, List.mem_singleton] at h
    obtain (h | h) | rfl := h
    · exact mayDo_readRegOps h
    · exact mayDo_writeRegOps h
    · exact hfinish (by simp [endingsOf])
  | startListening =>
    intro op h
    simp only [procedureOf, procStartListening, List.mem_append, List.mem_cons, List.not_mem_nil, or_false] at h
    obtain (h | h) | rfl | rfl := h
    · exact mayDo_readRegOps h
    · exact mayDo_writeRegOps h
    · trivial
    · exact hfinish (by simp [endingsOf])
  | stopListening =>
    intro op h
    simp only [procedureOf, procStopListening, List.mem_append, List.mem_cons, List.not_mem_nil, or_false] at h
    obtain rfl | (h | h) | rfl := h
    · trivial
    · exact mayDo_readRegOps h
    · exact mayDo_writeRegOps h
    · exact hfinish (by simp [endingsOf])
  | openReadingPipe v =>
    have hlt : 5#8 < v ↔ ¬ v.toNat ≤ 5 := by rw [BitVec.lt_def]; simp
    simp only [procedureOf, procOpenReadingPipe, pipeTarget]
    split_ifs with hv
    · exact mayDo_writeThenFinish (by simp [endingsOf, hlt, hv])
    · intro op h
      rw [List.mem_singleton.1 h]
      exact hfinish (by simp [endingsOf, hlt, hv])
  | readPayload len =>
    intro op h
    simp only [procedureOf, procReadPayload] at h
    split_ifs at h with hlen
    · rw [List.mem_singleton.1 h]
      exact hfinish (by simp [endingsOf, hlen])
    · simp only [List.mem_append, List.mem_singleton] at h
      obtain (h | h) | rfl := h
      · refine mayDo_frameOps (fun dst hd => ?_) h
        obtain ⟨j, hj, rfl⟩ := List.mem_map.1 hd
        exact ⟨len, rfl, List.mem_range.1 hj⟩
      · exact mayDo_writeRegOps h
      · exact hfinish (by simp [endingsOf, hlen])
  | writePayload len =>
    intro op h
    simp only [procedureOf, procWritePayload] at h
    split_ifs at h with hlen
    · rw [List.mem_singleton.1 h]
      exact hfinish (by simp [endingsOf, hlen])
    · simp only [List.mem_append, List.mem_cons, List.not_mem_nil, or_false] at h
      obtain (h | rfl | rfl) | rfl | rfl := h
      · exact mayDo_frameOps (fun _ hd => by cases hd) h
      · trivial
      · trivial
      · exact ⟨len, rfl, by omega⟩
      · exact hfinish (by simp [endingsOf, hlen])

/-- A set of positions that the poll loop does not leave: where all of a procedure lies in it, all it resolves to does. -/
def PollClosed (A : MicroOp → Prop) : Prop :=
  ∀ s : State, (∀ op ∈ s.seq, A op) → ∀ op ∈ resolve s, A op

/-- What a command may come to includes all that its polls lead to (R234-R237). -/
theorem pollClosed_mayDo (p : Params) (i : Instr) : PollClosed (mayDo p i) := by
  intro s h
  obtain hr | ⟨k, hk, hway⟩ := resolve_cases s
  · rwa [hr]
  · have hpoll : ∃ len, i = .writePayload len ∧ len.toNat ≤ p.payloadMax := by
      obtain hk | hk := hk <;> exact h _ (by rw [hk]; exact List.mem_cons_self)
    have htail : ∀ op ∈ k, mayDo p i op := by
      intro op hop
      obtain hk | hk := hk <;> exact h op (by rw [hk]; exact List.mem_cons_of_mem _ hop)
    obtain hr | ⟨-, hr⟩ | ⟨mask, b, hr⟩ := hway <;> rw [hr]
    · exact htail
    · intro op hop
      obtain hop | hop := List.mem_append.1 hop
      · exact mayDo_frameOps (fun dst hd => by rw [List.mem_singleton.1 hd]; exact hpoll) hop
      · obtain rfl | hop := List.mem_cons.1 hop
        · exact hpoll
        · exact htail op hop
    · obtain ⟨len, rfl, hlen⟩ := hpoll
      refine mayDo_writeThenFinish ?_
      cases b <;> simp [endingsOf, Nat.not_lt.2 hlen]

/-- No procedure holds a poll as a read of its own: the poll loop makes them (R234). -/
theorem pollReads_procedureOf (p : Params) (i : Instr) : pollReads (procedureOf p i) = 0 := by
  cases i with
  | openReadingPipe v =>
    simp only [procedureOf, procOpenReadingPipe]
    split <;> simp [pollReads_eq_count, writeRegOps, frameOps, addrlBytes]
  | writePayload len =>
    simp only [procedureOf, procWritePayload]
    split_ifs <;> simp [pollReads_eq_count, frameOps, List.count_eq_zero]
  | readPayload len =>
    simp only [procedureOf, procReadPayload]
    split_ifs <;> simp [pollReads_eq_count, writeRegOps, frameOps, List.count_eq_zero]
  | beginRadio => rfl
  | _ => rfl

/-! ### What a run keeps -/

/-- What can happen to the state between two positions of a running command, the engine doing only what `A` allows. -/
inductive RunStep (A : MicroOp → Prop) (s : State) : State → Prop
  /-- The schedule moves on. -/
  | sched {x : EnvStep} {e : List EnvStep} (he : s.env = x :: e) : RunStep A s (s.withEnv e)
  /-- A tick of a `Settle()` (R210). -/
  | tick : RunStep A s (settleTick s)
  /-- An event primitive or the end step (R31). -/
  | op {o : MicroOp} {k : List MicroOp} {t : State} (ho : A o) (ht : primitive o (s.withSeq k) = .next t) : RunStep A s t
  /-- A step of RF (R292). -/
  | rf (x : RfStep) : RunStep A s (s.react (rfStep s.cfg x))
  /-- A host read (R299). -/
  | got (b : Byte) : RunStep A s { s with hostData := b }
  /-- A reset step (R311). -/
  | reset {e : List EnvStep} (he : s.env = .reset :: e) : RunStep A s (resetStep (s.withEnv e))

/-- An event primitive leaves the rest of the procedure, the end step nothing of it (R22). -/
theorem primitive_seq {op : MicroOp} {s t : State} (h : primitive op s = .next t) : t.seq = s.seq ∨ t.seq = [] := by
  cases op with
  | out src => obtain ⟨b, rfl⟩ := primitive_out h; exact .inl rfl
  | finish e => cases h; exact .inr (endStep_seq_nil s e)
  | read dst => cases h; exact .inl (readDataByte_seq s dst)
  | driveCS l => cases h; exact .inl rfl
  | driveCE l => cases h; exact .inl rfl
  | cmd c => cases h; exact .inl rfl
  | pollLoop => cases h; exact .inl rfl
  | pollTest => cases h; exact .inl rfl

section RunRule

variable {P : State → Prop} {A : MicroOp → Prop} (hA : PollClosed A)
  (hP : ∀ s t, s.phase = .run → P s → RunStep A s t → P t)

include hA hP

/-- A step of the engine inside a running command keeps what every run step keeps. -/
theorem engineStep_run_keeps {s t : State} (hp : s.phase = .run) (hs : P s) (hseq : ∀ op ∈ s.seq, A op)
    (h : engineStep s = .next t) : P t ∧ ∀ op ∈ t.seq, A op := by
  obtain ⟨hp', -⟩ | ⟨hp', -⟩ | ⟨-, -, rfl⟩ | ⟨-, -, op, k, hr, ht⟩ | ⟨-, -, -, rfl⟩ := engineStep_cases h
  · simp [hp'] at hp
  · simp [hp'] at hp
  · exact ⟨hP _ _ hp hs .tick, hseq⟩
  · have hres := hA s hseq
    rw [hr, List.forall_mem_cons] at hres
    obtain ⟨hop, hk⟩ := hres
    refine ⟨hP _ _ hp hs (.op hop ht), ?_⟩
    obtain ht | ht := primitive_seq ht <;> rw [ht]
    · exact hk
    · exact fun _ h => by cases h
  · exact ⟨hs, hseq⟩

/-- A move inside a running command keeps what every run step keeps. -/
theorem move_run_keeps {s t : State} (hp : s.phase = .run) (hs : P s) (hseq : ∀ op ∈ s.seq, A op)
    (h : move s = .next t) : P t ∧ ∀ op ∈ t.seq, A op := by
  have hsched : ∀ {x e}, s.env = x :: e → P (s.withEnv e) := fun he => hP _ _ hp hs (.sched he)
  obtain ⟨e, he, ht⟩ | ⟨e, he, rfl⟩ | ⟨x, e, he, rfl⟩ | ⟨x, e, b, he, rfl⟩ := move_run_cases hp h
  · have hPe : P (s.withEnv e) := by
      obtain rfl | ⟨x, he⟩ := he
      · exact hs
      · exact hsched he
    exact engineStep_run_keeps hA hP (s := s.withEnv e) hp hPe hseq ht
  · exact ⟨hP _ _ hp hs (.reset he), fun _ h => by cases h⟩
  · exact ⟨hP (s.withEnv e) _ hp (hsched he) (.rf x), hseq⟩
  · exact ⟨hP (s.withEnv e) _ hp (hsched he) (.got b), hseq⟩

/-- A run that goes on only inside a running command keeps what every run step keeps. -/
theorem runUntil_run_keeps {done : State → Bool} (hdone : ∀ s, done s = false → s.phase = .run) {n : Nat} {s t : State}
    (hs : P s) (hseq : ∀ op ∈ s.seq, A op) (h : runUntil done n s = .next t) : P t :=
  (runUntil_keeps (P := fun u => P u ∧ ∀ op ∈ u.seq, A op) done
    (fun _ _ hu hd hm => move_run_keeps hA hP (hdone _ hd) hu.1 hu.2 hm) n s t ⟨hs, hseq⟩ h).1

end RunRule

theorem run_of_commandDone_eq_false {s : State} (h : commandDone s = false) : s.phase = .run := by
  simpa [commandDone] using h

theorem run_of_frameDone_eq_false {s : State} (h : frameDone s = false) : s.phase = .run := by
  simp only [frameDone, Bool.or_eq_false_iff, bne_eq_false_iff_eq] at h
  exact h.1

/-- WRITE_PAYLOAD's clear of `poll_cnt` touches nothing else (R25). -/
theorem beforeAccept_eq (i : Instr) (s : State) : ∃ n ≤ s.pollCnt, beforeAccept i s = { s with pollCnt := n } := by
  cases i with
  | writePayload len =>
    simp only [beforeAccept]
    split_ifs
    · exact ⟨0, Nat.zero_le _, rfl⟩
    · exact ⟨s.pollCnt, le_rfl, rfl⟩
  | _ => exact ⟨s.pollCnt, le_rfl, rfl⟩

/-- The run of a host command on an IDLE machine: what holds after its accept and is kept by every run step holds at its end. -/
theorem exec_host_keeps {P : State → Prop} {s t : State} {i : Instr} {w : Word}
    (hP : ∀ u v, u.phase = .run → P u → RunStep (mayDo s.cfg i) u v → P v) (hi : encode i = .host w) (hidle : s.phase = .idle)
    (haccept : ∀ n, P (accept w (procedureOf s.cfg i) { s with pollCnt := n })) (h : exec i s = .next t) : P t := by
  obtain ⟨n, -, hn⟩ := beforeAccept_eq i s
  rw [exec_host hi, hn, hostCommand, if_pos hidle] at h
  exact runUntil_run_keeps (pollClosed_mayDo s.cfg i) hP (fun _ => run_of_commandDone_eq_false) (haccept n)
    (mayDo_procedureOf s.cfg i) h

/-- A host command on a machine that is not IDLE waits (R33). -/
theorem exec_host_waits {s t : State} {i : Instr} {w : Word} (hi : encode i = .host w) (hp : s.phase ≠ .idle)
    (h : exec i s = .next t) : ∃ n, t = { s with pollCnt := n } := by
  obtain ⟨n, -, hn⟩ := beforeAccept_eq i s
  rw [exec_host hi, hn, hostCommand, if_neg hp] at h
  cases h
  exact ⟨n, rfl⟩

end Sys2Proof.Machine

/-! The invariant and the rules that hold in every environment: the statements of tier 3 of the family 10_state. -/

namespace Sys2Proof.Machine

/-! ### The invariant (R20, R22, R24, R25, R29, R34, R39, R47, R49) -/

/-- The accept of a well framed procedure with no poll of its own (R31). -/
theorem State.Inv.accept {s : State} (h : s.Inv) (hp : s.phase = .idle) (w : Word) {ops : List MicroOp}
    (hf : framed true ops = true) (hn : pollReads ops = 0) : (accept w ops s).Inv := by
  have hseq : s.seq = [] := by simpa [hp] using h.procedure
  have hcs : s.csN = true := h.released (by simp [hp])
  have hcnt : s.pollCnt ≤ s.cfg.pollMax := by simpa [hseq, pollReads] using h.polls
  exact {
    released := fun _ => hcs
    busy := rfl
    rvalid := fun hv => by simp at hv
    settle := ⟨h.settle.1, fun hi => by simp at hi⟩
    procedure := by simpa [hcs] using hf
    polls := by simpa [hn] using hcnt
    latches := h.latches
    lines := h.lines }

/-- The clear of `poll_cnt` (R25), or none. -/
theorem State.Inv.fewerPolls {s : State} (h : s.Inv) {n : Nat} (hn : n ≤ s.pollCnt) : State.Inv { s with pollCnt := n } :=
  ⟨h.released, h.busy, h.rvalid, h.settle, h.procedure, (Nat.add_le_add_right hn _).trans h.polls, h.latches, h.lines⟩

/-- A move keeps the invariant, whichever agent makes it. -/
theorem State.Inv.move {s t : State} (h : s.Inv) (ht : move s = .next t) : t.Inv :=
  move_keeps (P := State.Inv)
    (hengine := fun _ _ hu ht => hu.engineStep ht)
    (henv := fun _ _ e hu _ => hu.withEnv e)
    (hreset := fun _ e hu _ => (hu.withEnv e).resetStep)
    (hrf := fun _ x e hu _ => (hu.withEnv e).rf x)
    (hhost := fun _ _ e _ hu _ _ ht => (hu.withEnv e).hostStep ht)
    h ht

/-- Settles O49: the engine's step, the moves of RF, host and reset, and every accept keep the invariant. -/
theorem invariantKeptByEveryStep : Obligations.InvariantKeptByEveryStep := by
  intro s t hs h
  exact step_keeps (P := State.Inv)
    (hengine := fun _ _ hu ht => hu.engineStep ht)
    (henv := fun _ _ e hu _ => hu.withEnv e)
    (hreset := fun _ e hu _ => (hu.withEnv e).resetStep)
    (hrf := fun _ x e hu _ => (hu.withEnv e).rf x)
    (hhost := fun _ _ e _ hu _ _ ht => (hu.withEnv e).hostStep ht)
    (hpoll := fun _ hu _ => hu.fewerPolls (Nat.zero_le _))
    (haccept := fun u w i hu hp _ hi => hu.accept hp w (framed_procedureOf u.cfg hi) (pollReads_procedureOf u.cfg i))
    (hbad := fun _ w hu hp => hu.accept hp w rfl rfl)
    hs h

/-- The machine right after reset meets the invariant where the radio sees its lines released (R53, R54). -/
theorem resetWith_inv (p : Params) {r : Radio} (hin : r.inFrame = false) (hce : r.ceSeen = false) :
    (State.resetWith p r).Inv where
  released _ := rfl
  busy := rfl
  rvalid hv := by cases hv
  settle := ⟨le_rfl, fun hp => by cases hp⟩
  procedure := rfl
  polls := Nat.zero_le _
  latches := by simp [State.resetWith]
  lines _ := ⟨hin, hce⟩

/-- Settles O48: the radio of `State.reset` is between frames and sees CE low, as R54 has it. -/
theorem invariantAtReset : Obligations.InvariantAtReset :=
  ⟨fun p _ => resetWith_inv p, resetWith_inv Params.defaults rfl rfl⟩

/-! ### The settling rule (R211, R212) -/

/-- No reset is scheduled, and the bus trace owes no more ticks than the engine still counts. -/
def State.Settling (s : State) : Prop :=
  s.noReset ∧ ∃ m, ticksOwed s.cfg s.trace = some m ∧ m ≤ s.settleCnt

/-- The settling rule speaks of the parameters, the trace, the count and the schedule alone. -/
theorem State.Settling.congr {s t : State} (h : s.Settling) (hcfg : t.cfg = s.cfg) (htrace : t.trace = s.trace)
    (hcnt : t.settleCnt = s.settleCnt) (henv : t.env = s.env) : t.Settling := by
  unfold State.Settling State.noReset
  rw [hcfg, htrace, hcnt, henv]
  exact h

theorem State.Settling.withEnv {s : State} (h : s.Settling) {x : EnvStep} {e : List EnvStep} (he : s.env = x :: e) :
    (s.withEnv e).Settling := by
  obtain ⟨hno, hm⟩ := h
  exact ⟨fun hmem => hno (by rw [he]; exact List.mem_cons_of_mem _ hmem), hm⟩

theorem State.Settling.settleTick {s : State} (h : s.Settling) : (settleTick s).Settling := by
  obtain ⟨hno, m, hm, hle⟩ := h
  exact ⟨hno, m - 1, by simp [ticksOwed, hm], by simp; omega⟩

/-- An event primitive or the end step with no tick owed. -/
theorem State.Settling.primitive {s t : State} (h : s.Settling) (h0 : s.settleCnt = 0) {op : MicroOp}
    (ht : primitive op s = .next t) : t.Settling := by
  have howed : ticksOwed s.cfg s.trace = some 0 := by
    obtain ⟨-, m, hm, hle⟩ := h
    rw [hm, show m = 0 by omega]
  cases op with
  | driveCS l => cases ht; exact ⟨h.1, _, by simp [ticksOwed, howed], le_rfl⟩
  | driveCE l => cases ht; exact ⟨h.1, _, by simp [ticksOwed, howed], le_rfl⟩
  | cmd c => cases ht; exact ⟨h.1, 0, by simp [ticksOwed, howed], Nat.zero_le _⟩
  | out src =>
    obtain ⟨b, rfl⟩ := primitive_out ht
    exact ⟨h.1, 0, by simp [ticksOwed, howed], Nat.zero_le _⟩
  | read dst =>
    cases ht
    exact ⟨by simpa [State.noReset] using h.1, 0, by simp [ticksOwed, howed], Nat.zero_le _⟩
  | finish e => cases ht; exact h.congr (by simp) (by simp) (by simp) (by simp)
  | pollLoop => cases ht; exact h
  | pollTest => cases ht; exact h

theorem State.Settling.engineStep {s t : State} (h : s.Settling) (ht : engineStep s = .next t) : t.Settling := by
  obtain ⟨-, rfl⟩ | ⟨-, rfl⟩ | ⟨-, -, rfl⟩ | ⟨-, h0, op, k, -, ht⟩ | ⟨-, -, -, rfl⟩ := engineStep_cases ht
  · exact h
  · unfold resetTick
    split_ifs
    · exact h.congr rfl rfl rfl rfl
    · exact h.settleTick.congr rfl rfl rfl rfl
    · exact h.settleTick
  · exact h.settleTick
  · exact State.Settling.primitive (s := s.withSeq k) (h.congr rfl rfl rfl rfl) h0 ht
  · exact h

theorem State.Settling.hostStep {s t : State} (h : s.Settling) {x : HostStep} (ht : hostStep x s = .next t) : t.Settling := by
  obtain ⟨-, rfl⟩ | ⟨w, -, rfl⟩ | ⟨i, b, -, rfl⟩ | ⟨i, b, -, rfl⟩ | ⟨r, b, -, rfl⟩ := hostStep_cases ht <;>
    exact h.congr rfl rfl rfl rfl

/-- Settles O51: a bus event comes only where the engine counts no tick, and each tick it counts is on the trace. -/
theorem settlingRuleKept : Obligations.SettlingRuleKept := by
  intro s t m _ hno hm hle h
  have ht : t.Settling := step_keeps (P := State.Settling)
    (hengine := fun _ _ hu ht => hu.engineStep ht)
    (henv := fun _ _ _ hu he => hu.withEnv he)
    (hreset := fun _ e hu he => absurd (by rw [he]; exact List.mem_cons_self) hu.1)
    (hrf := fun _ _ _ hu he => (hu.withEnv he).congr rfl rfl rfl rfl)
    (hhost := fun _ _ _ _ hu he _ ht => (hu.withEnv he).hostStep ht)
    (hpoll := fun _ hu _ => hu.congr rfl rfl rfl rfl)
    (haccept := fun _ _ _ hu _ _ _ => hu.congr rfl rfl rfl rfl)
    (hbad := fun _ _ hu _ => hu.congr rfl rfl rfl rfl)
    ⟨hno, m, hm, hle⟩ h
  obtain ⟨hno', m', hm', hle'⟩ := ht
  exact ⟨m', hm', hle', hno'⟩

/-! ### Every command ends (R331) -/

/-- Engine steps of the poll loop with `n` polls still to be made: the polls, the frame that clears a flag and the end step. -/
def pollLoopCost (p : Params) (n : Nat) : Nat := n * (4 + 2 * p.settleTicks) + (5 + 2 * p.settleTicks)

/-- A bound on the engine steps a procedure still takes, `n` polls being left to it. -/
def stepsLeft (p : Params) : Nat → List MicroOp → Nat
  | _, [] => 0
  | n, .read .poll :: k => 1 + stepsLeft p (n - 1) k
  | n, .pollLoop :: _ => pollLoopCost p n
  | n, .pollTest :: _ => pollLoopCost p n
  | n, op :: k => opCost p op + stepsLeft p n k

/-- Event primitives other than polls take the steps they cost. -/
theorem stepsLeft_append (p : Params) (n : Nat) {ops : List MicroOp} (hops : ops.all MicroOp.isEvent = true)
    (hpoll : .read .poll ∉ ops) (k : List MicroOp) : stepsLeft p n (ops ++ k) = opsCost p ops + stepsLeft p n k := by
  induction ops with
  | nil => simp
  | cons op ops ih =>
    simp only [List.all_cons, Bool.and_eq_true] at hops
    simp only [List.mem_cons, not_or] at hpoll
    have hop : stepsLeft p n (op :: (ops ++ k)) = opCost p op + stepsLeft p n (ops ++ k) := by
      cases op with
      | read dst =>
        cases dst with
        | poll => exact absurd rfl hpoll.1
        | tmp => rfl
        | rxb i => rfl
      | pollLoop => cases hops.1
      | pollTest => cases hops.1
      | _ => rfl
    rw [List.cons_append, hop, ih hops.2 hpoll.2, opsCost_cons, Nat.add_assoc]

theorem stepsLeft_pollAgain (p : Params) {n : Nat} (hn : 0 < n) (k : List MicroOp) :
    stepsLeft p n (readRegOps 0x07#5 .poll ++ .pollTest :: k) = pollLoopCost p n := by
  obtain ⟨n, rfl⟩ := Nat.exists_eq_succ_of_ne_zero hn.ne'
  simp [readRegOps, frameOps, stepsLeft, pollLoopCost, opCost, Nat.succ_mul]
  omega

theorem stepsLeft_pollResolved (p : Params) (n : Nat) (mask : Byte) (b : Bool) :
    stepsLeft p n (pollResolved mask b) = 5 + 2 * p.settleTicks := by
  rw [pollResolved, stepsLeft_append p n (isEvent_writeRegOps _ _) (by simp [writeRegOps, frameOps])]
  simp [stepsLeft, opCost]
  omega

/-- Engine steps the running command still takes at most. -/
def State.stepsLeft (s : State) : Nat := s.settleCnt + Machine.stepsLeft s.cfg (s.cfg.pollMax - s.pollCnt) s.seq

/-- The pure tests cost no step of their own: what they lead to is counted with them (R22, R31). -/
theorem stepsLeft_resolve {s : State} (hf : framed s.csN s.seq = true) :
    stepsLeft s.cfg (s.cfg.pollMax - s.pollCnt) (resolve s) ≤ stepsLeft s.cfg (s.cfg.pollMax - s.pollCnt) s.seq := by
  obtain hr | ⟨k, hk, hway⟩ := resolve_cases s
  · rw [hr]
  · obtain ⟨-, e, rfl⟩ := framed_poll hf hk
    have hloop : stepsLeft s.cfg (s.cfg.pollMax - s.pollCnt) s.seq = pollLoopCost s.cfg (s.cfg.pollMax - s.pollCnt) := by
      obtain hk | hk := hk <;> rw [hk] <;> rfl
    rw [hloop]
    obtain hr | ⟨hlt, hr⟩ | ⟨mask, b, hr⟩ := hway <;> rw [hr]
    · simp only [stepsLeft, opCost, pollLoopCost]; omega
    · rw [stepsLeft_pollAgain _ (by omega)]
    · rw [stepsLeft_pollResolved, pollLoopCost]; omega

/-- An event primitive takes one of the steps left, its settling the others; the end step leaves RUN. -/
theorem stepsLeft_primitive {s t : State} {op : MicroOp} {k : List MicroOp} (h0 : s.settleCnt = 0)
    (hf : framed s.csN (op :: k) = true) (ht : primitive op (s.withSeq k) = .next t) :
    t.phase ≠ .run ∨ t.stepsLeft < stepsLeft s.cfg (s.cfg.pollMax - s.pollCnt) (op :: k) := by
  cases op with
  | driveCS l => cases ht; right; simp [State.stepsLeft, stepsLeft, opCost]
  | driveCE l => cases ht; right; simp [State.stepsLeft, stepsLeft, opCost]
  | cmd c => cases ht; right; simp [State.stepsLeft, stepsLeft, opCost, h0]
  | out src =>
    obtain ⟨b, rfl⟩ := primitive_out ht
    right; simp [State.stepsLeft, stepsLeft, opCost, h0]
  | read dst =>
    cases ht
    right
    cases dst with
    | tmp => simp [State.stepsLeft, stepsLeft, opCost, readDataByte, h0]
    | poll => simp [State.stepsLeft, stepsLeft, readDataByte, h0, Nat.sub_add_eq]
    | rxb i => simp [State.stepsLeft, stepsLeft, opCost, readDataByte, h0]
  | pollLoop =>
    cases ht
    obtain ⟨-, e, rfl⟩ := framed_poll hf (.inl rfl)
    right; simp [State.stepsLeft, stepsLeft, pollLoopCost, opCost, h0]; omega
  | pollTest =>
    cases ht
    obtain ⟨-, e, rfl⟩ := framed_poll hf (.inr rfl)
    right; simp [State.stepsLeft, stepsLeft, pollLoopCost, opCost, h0]; omega
  | finish e => cases ht; left; simp

/-- Every step of the engine inside a command takes one of the steps left, or leaves RUN. -/
theorem stepsLeft_engineStep {s t : State} (h : s.Inv) (hp : s.phase = .run) (ht : engineStep s = .next t) :
    t.phase ≠ .run ∨ t.stepsLeft < s.stepsLeft := by
  have hf : framed s.csN s.seq = true := by simpa [hp] using h.procedure
  have hres := stepsLeft_resolve hf
  obtain ⟨hfr, -⟩ := resolve_framed hf h.polls
  obtain ⟨hp', -⟩ | ⟨hp', -⟩ | ⟨-, h0, rfl⟩ | ⟨-, h0, op, k, hr, ht⟩ | ⟨-, -, hr, -⟩ := engineStep_cases ht
  · simp [hp'] at hp
  · simp [hp'] at hp
  · right; simp [State.stepsLeft]; omega
  · rw [hr] at hfr hres
    refine (stepsLeft_primitive h0 hfr ht).imp_right fun hlt => hlt.trans_le ?_
    simpa [State.stepsLeft, h0] using hres
  · rw [hr] at hfr
    simp [framed] at hfr

/-- Every move inside a command takes an entry of the schedule or an engine step of those left, or leaves RUN. -/
theorem stepsLeft_move {s t : State} (h : s.Inv) (hp : s.phase = .run) (ht : move s = .next t) :
    t.phase ≠ .run ∨ t.env.length + t.stepsLeft < s.env.length + s.stepsLeft := by
  obtain ⟨e, he, ht⟩ | ⟨e, -, rfl⟩ | ⟨x, e, he, rfl⟩ | ⟨x, e, b, he, rfl⟩ := move_run_cases hp ht
  · have hlen : e.length ≤ s.env.length := by
      obtain rfl | ⟨x, he⟩ := he
      · exact le_rfl
      · simp [he]
    obtain ⟨-, henv, -⟩ := engineStep_frame ht
    refine (stepsLeft_engineStep (h.withEnv e) hp ht).imp_right fun hlt => ?_
    rw [henv, withEnv_env]
    exact Nat.add_lt_add_of_le_of_lt hlen hlt
  · left; simp
  · right; simp [he, State.stepsLeft]
  · right; simp [he, State.stepsLeft]

/-- A run with as many moves as are left ends its command (R331). -/
theorem runUntil_leaves_run {n : Nat} {s t : State} (h : s.Inv) (hn : s.phase = .run → s.env.length + s.stepsLeft < n)
    (ht : runUntil commandDone n s = .next t) : t.phase ≠ .run := by
  induction n generalizing s with
  | zero =>
    cases ht
    exact fun hp => absurd (hn hp) (Nat.not_lt_zero _)
  | succ n ih =>
    rw [runUntil] at ht
    split_ifs at ht with hd
    · cases ht
      simpa [commandDone] using hd
    · have hp : s.phase = .run := by simpa [commandDone] using hd
      cases hm : move s with
      | next u =>
        rw [hm] at ht
        refine ih (h.move hm) (fun hpu => ?_) ht
        have hlt := (stepsLeft_move h hp hm).resolve_left (not_not.2 hpu)
        have := hn hp
        omega
      | fault f => rw [hm] at ht; cases ht
      | refused r => rw [hm] at ht; cases ht

/-- Event primitives with the end step after them take the steps they cost and one more. -/
theorem stepsLeft_finish (p : Params) (n : Nat) {ops : List MicroOp} (hops : ops.all MicroOp.isEvent = true)
    (hpoll : .read .poll ∉ ops) (e : Ending) : stepsLeft p n (ops ++ [.finish e]) = opsCost p ops + 1 := by
  rw [stepsLeft_append p n hops hpoll]
  simp [stepsLeft, opCost]

/-- The positions of WRITE_PAYLOAD before its poll loop (R232, R233). -/
def writePayloadEvents (len : Byte) : List MicroOp :=
  frameOps 0xA0#8 ((List.range len.toNat).map .txb) [] ++ [.driveCE true, .driveCE false]

theorem procWritePayload_accepted {n : Nat} {len : Byte} (h : len.toNat ≤ n) :
    procWritePayload n len = writePayloadEvents len ++ [.pollLoop, .finish (.flag false)] := by
  rw [procWritePayload, if_neg (by omega)]
  rfl

theorem isEvent_writePayloadEvents (len : Byte) : (writePayloadEvents len).all MicroOp.isEvent = true := by
  simp [writePayloadEvents, MicroOp.isEvent]

theorem opsCost_writePayloadEvents (p : Params) (len : Byte) :
    opsCost p (writePayloadEvents len) = 5 + 4 * p.settleTicks + len.toNat := by
  simp [writePayloadEvents, opCost]
  omega

/-- START_LISTENING's event primitives, and its end step (R213). -/
theorem procStartListening_eq :
    procStartListening
      = (readRegOps 0x00#5 .tmp ++ writeRegOps 0x00#5 [.modify 0xFF#8 0x01#8] ++ [.driveCE true]) ++ [.finish (.flag false)] := by
  simp [procStartListening]

/-- R331: a procedure of event primitives with its end step is within the bound, its accept counted. -/
theorem stepsLeft_lt_of_finish {p : Params} {i : Instr} {ops : List MicroOp} {e : Ending} (n : Nat)
    (hproc : procedureOf p i = ops ++ [.finish e]) (hops : ops.all MicroOp.isEvent = true)
    (hcost : opsCost p ops + 1 < commandBound p) : stepsLeft p n (procedureOf p i) < commandBound p := by
  have hpoll : .read .poll ∉ ops := by
    have h0 := pollReads_procedureOf p i
    rw [hproc, pollReads_eq_count, List.count_append] at h0
    exact List.count_eq_zero.1 (Nat.eq_zero_of_add_eq_zero_right h0)
  rw [hproc, stepsLeft_finish p n hops hpoll]
  exact hcost

/-- R331: the bound holds the steps of BEGIN, the longest command with no latch and no poll. -/
theorem lt_commandBound_short {p : Params} {m : Nat} (hm : m < 35 + 17 * p.settleTicks) : m < commandBound p :=
  lt_max_of_lt_left hm

/-- R331: the bound holds a payload, POLL_MAX polls and six more settling periods. -/
theorem lt_commandBound_long {p : Params} {m : Nat}
    (hm : m < 11 + p.payloadMax + 6 * p.settleTicks + p.pollMax * (4 + 2 * p.settleTicks)) : m < commandBound p := by
  refine lt_max_of_lt_right (hm.trans_eq ?_)
  ring

/-- R331: the bound on the engine steps of a command holds its procedure's steps and its accept. -/
theorem stepsLeft_procedureOf_lt (p : Params) {n : Nat} (hn : n ≤ p.pollMax) {i : Instr} {w : Word} (hi : encode i = .host w) :
    stepsLeft p n (procedureOf p i) < commandBound p := by
  have hloop : n * (4 + 2 * p.settleTicks) ≤ p.pollMax * (4 + 2 * p.settleTicks) := Nat.mul_le_mul_right _ hn
  cases i with
  | rRegister | wRegister | wTxPayload | rRxPayload => cases hi
  | writeReg a v => exact stepsLeft_lt_of_finish n rfl (isEvent_writeRegOps _ _) (lt_commandBound_short (by simp; omega))
  | readReg a => exact stepsLeft_lt_of_finish n rfl (isEvent_readRegOps _ _) (lt_commandBound_short (by simp; omega))
  | beginRadio =>
    exact stepsLeft_lt_of_finish n (ops := .driveCE false :: beginTable.flatMap (fun row => writeRegOps row.1 [.const row.2]))
      rfl (by rfl) (lt_commandBound_short (by simp [beginTable, opCost]; omega))
  | setChannel v => exact stepsLeft_lt_of_finish n rfl (isEvent_writeRegOps _ _) (lt_commandBound_short (by simp; omega))
  | setPaLevel v => exact stepsLeft_lt_of_finish n rfl (by simp) (lt_commandBound_short (by simp; omega))
  | openWritingPipe =>
    exact stepsLeft_lt_of_finish n rfl (isEvent_writeRegOps _ _) (lt_commandBound_short (by simp [addrlBytes]; omega))
  | openReadingPipe v =>
    cases hv : pipeTarget v with
    | none =>
      exact stepsLeft_lt_of_finish (ops := []) (e := .error .errPipe) n (by simp [procedureOf, procOpenReadingPipe, hv]) rfl
        (lt_commandBound_short (by simp; omega))
    | some a =>
      exact stepsLeft_lt_of_finish n (by simp only [procedureOf, procOpenReadingPipe, hv]; rfl) (isEvent_writeRegOps _ _)
        (lt_commandBound_short (by simp [addrlBytes]; omega))
  | startListening =>
    exact stepsLeft_lt_of_finish n procStartListening_eq (by simp [MicroOp.isEvent])
      (lt_commandBound_short (by simp [opCost]; omega))
  | stopListening =>
    exact stepsLeft_lt_of_finish n
      (ops := .driveCE false :: (readRegOps 0x00#5 .tmp ++ writeRegOps 0x00#5 [.modify 0xFE#8 0x00#8])) rfl
      (by simp [MicroOp.isEvent]) (lt_commandBound_short (by simp [opCost]; omega))
  | available => exact stepsLeft_lt_of_finish n rfl (isEvent_readRegOps _ _) (lt_commandBound_short (by simp; omega))
  | readPayload len =>
    by_cases hlen : p.payloadMax < len.toNat
    · exact stepsLeft_lt_of_finish (ops := []) n (if_pos hlen) rfl
        (lt_commandBound_short (by simp; omega))
    · exact stepsLeft_lt_of_finish n (if_neg hlen) (by simp) (lt_commandBound_long (by simp; omega))
  | writePayload len =>
    by_cases hlen : p.payloadMax < len.toNat
    · exact stepsLeft_lt_of_finish (ops := []) n (if_pos hlen) rfl
        (lt_commandBound_short (by simp; omega))
    · rw [procedureOf, procWritePayload_accepted (Nat.not_lt.1 hlen),
        stepsLeft_append p n (isEvent_writePayloadEvents len) (by simp [writePayloadEvents, frameOps]),
        opsCost_writePayloadEvents]
      refine lt_commandBound_long ?_
      simp only [stepsLeft, pollLoopCost]
      omega

/-- Settles O52: the accepted command starts with fewer steps left than its run may take, and every move takes one. -/
theorem everyCommandEnds : Obligations.EveryCommandEnds := by
  intro s t i w hs hidle hi h
  obtain ⟨n, hle, hn⟩ := beforeAccept_eq i s
  rw [exec_host hi, hn, hostCommand, if_pos hidle, runCommand] at h
  have hinv := (hs.fewerPolls hle).accept hidle w (framed_procedureOf s.cfg hi) (pollReads_procedureOf s.cfg i)
  refine runUntil_leaves_run hinv (fun _ => ?_) h
  have hsettle : s.settleCnt = 0 := hs.settle.2 hidle
  have hlt := stepsLeft_procedureOf_lt s.cfg (n := s.cfg.pollMax - n) (Nat.sub_le _ _) hi
  simp only [State.stepsLeft, accept_env, accept_cfg, accept_settleCnt, accept_pollCnt, accept_seq, hsettle]
  omega

end Sys2Proof.Machine

/-! How host commands end in every environment: result code, CE, and the latches. -/

namespace Sys2Proof.Machine

/-! ### The result code (R35, R36, R280, R282-R284) -/

/-- The end step ends the command; every other primitive lets it run on (R31). -/
theorem primitive_phase {op : MicroOp} {s t : State} (h : primitive op s = .next t) :
    (∃ e, op = .finish e ∧ t = endStep e s) ∨ t.phase = s.phase := by
  cases op with
  | finish e => cases h; exact .inl ⟨e, rfl, rfl⟩
  | out src => obtain ⟨b, rfl⟩ := primitive_out h; exact .inr rfl
  | read dst => cases h; exact .inr (readDataByte_phase s dst)
  | driveCS l => cases h; exact .inr rfl
  | driveCE l => cases h; exact .inr rfl
  | cmd c => cases h; exact .inr rfl
  | pollLoop => cases h; exact .inr rfl
  | pollTest => cases h; exact .inr rfl

theorem noReset_tail {s : State} {x : EnvStep} {e : List EnvStep} (h : s.noReset) (he : s.env = x :: e) :
    (s.withEnv e).noReset :=
  fun hmem => h (by rw [he]; exact List.mem_cons_of_mem _ hmem)

theorem noReset_head {s : State} {e : List EnvStep} (h : s.noReset) : s.env ≠ .reset :: e :=
  fun he => h (by rw [he]; exact List.mem_cons_self)

/-- No reset comes into the schedule by a run step. -/
theorem RunStep.noReset {A : MicroOp → Prop} {s t : State} (h : RunStep A s t) (hs : s.noReset) : t.noReset := by
  cases h with
  | sched he => exact noReset_tail hs he
  | op _ ht =>
    obtain ⟨-, henv, -⟩ := primitive_frame ht
    unfold State.noReset
    rw [henv]
    exact hs
  | reset he => exact absurd he (noReset_head hs)
  | tick => exact hs
  | rf x => exact hs
  | got b => exact hs

/-- With no reset a run step either leaves the command running or is the end step of one of its endings. -/
theorem RunStep.endsOrRuns {p : Params} {i : Instr} {s t : State} (h : RunStep (mayDo p i) s t) (hno : s.noReset)
    (hp : s.phase = .run) : t.phase = .run ∨ ∃ e ∈ endingsOf p i, ∃ u, t = endStep e u := by
  cases h with
  | op ho ht =>
    obtain ⟨e, rfl, rfl⟩ | hphase := primitive_phase ht
    · exact .inr ⟨e, ho, _, rfl⟩
    · exact .inl (hphase.trans hp)
  | reset he => exact absurd he (noReset_head hno)
  | sched he => exact .inl hp
  | tick => exact .inl hp
  | rf x => exact .inl hp
  | got b => exact .inl hp

/-- With no reset a host command ends in the end step of one of its endings (R31, R331). -/
theorem exec_host_ends {s t : State} {i : Instr} {w : Word} (hs : s.Inv) (hno : s.noReset) (hidle : s.phase = .idle)
    (hi : encode i = .host w) (h : exec i s = .next t) : ∃ e ∈ endingsOf s.cfg i, ∃ u, t = endStep e u := by
  have hend := everyCommandEnds s t i w hs hidle hi h
  have hruns := exec_host_keeps
    (P := fun u => u.noReset ∧ (u.phase = .run ∨ ∃ e ∈ endingsOf s.cfg i, ∃ v, u = endStep e v))
    (fun _ _ hp hu hstep => ⟨hstep.noReset hu.1, hstep.endsOrRuns hu.1 hp⟩) hi hidle (fun _ => ⟨hno, .inl rfl⟩) h
  exact hruns.2.resolve_left hend

/-- Only WRITE_PAYLOAD and AVAILABLE can end with RFLAG 1 (R36). -/
theorem flagless_of_mem_endingsOf {p : Params} {i : Instr} {e : Ending} (he : e ∈ endingsOf p i)
    (hw : ∀ len, i ≠ .writePayload len) (ha : i ≠ .available) : e ≠ .flag true ∧ e ≠ .ready := by
  cases i with
  | writePayload len => exact absurd rfl (hw len)
  | available => exact absurd rfl ha
  | rRegister | wRegister | wTxPayload | rRxPayload => cases he
  | openReadingPipe v =>
    rw [List.mem_singleton.1 he]
    split_ifs <;> simp
  | readPayload len =>
    rw [List.mem_singleton.1 he]
    split_ifs <;> simp
  | _ => rw [List.mem_singleton.1 he]; simp

/-- An error code is left by the error ending alone, which leaves RFLAG 0 (R280). -/
theorem endStep_rflag_of_error {e : Ending} (h : e.code ≠ .ok) (s : State) : (endStep e s).rflag = false := by
  cases e with
  | error c => rfl
  | flag b => exact absurd rfl h
  | data => exact absurd rfl h
  | ready => exact absurd rfl h

/-- Settles O53: the command ends in the end step of one of its endings, which all carry the code of its operand. -/
theorem resultCodeOfEveryCommand : Obligations.ResultCodeOfEveryCommand := by
  intro s t i w hs hno hidle hi h
  obtain ⟨e, he, u, rfl⟩ := exec_host_ends hs hno hidle hi h
  refine ⟨endStep_phase u e, endStep_busy u e, endStep_rvalid u e, ?_, ?_, fun hw ha => ?_⟩
  · rw [endStep_rcode]
    cases i with
    | writePayload len =>
      simp only [endingsOf] at he ⊢
      split_ifs at he ⊢ with hlen
      · rw [List.mem_singleton.1 he]; rfl
      · obtain rfl | he := List.mem_cons.1 he
        · rfl
        · rw [List.mem_singleton.1 he]; rfl
    | openReadingPipe v => rw [List.mem_singleton.1 he]; dsimp only; split_ifs <;> rfl
    | readPayload len => rw [List.mem_singleton.1 he]; dsimp only; split_ifs <;> rfl
    | rRegister | wRegister | wTxPayload | rRxPayload => cases he
    | _ => rw [List.mem_singleton.1 he]; rfl
  · rw [endStep_rcode]
    exact fun hcode => endStep_rflag_of_error hcode u
  · obtain ⟨hflag, hready⟩ := flagless_of_mem_endingsOf he hw ha
    exact endStep_rflag u hflag hready

/-! ### Chip-enable (R28, R217) -/

/-- CE after a procedure that finds it at the level `ce`. -/
def ceAfter : Bool → List MicroOp → Bool
  | ce, [] => ce
  | _, .driveCE l :: k => ceAfter l k
  | ce, .finish _ :: _ => ce
  | ce, _ :: k => ceAfter ce k

@[simp] theorem ceAfter_outs (ce : Bool) (l : List ByteSource) (k : List MicroOp) :
    ceAfter ce (l.map .out ++ k) = ceAfter ce k := by
  induction l with
  | nil => rfl
  | cons a l ih => exact ih

@[simp] theorem ceAfter_reads (ce : Bool) (l : List ByteDest) (k : List MicroOp) :
    ceAfter ce (l.map .read ++ k) = ceAfter ce k := by
  induction l with
  | nil => rfl
  | cons a l ih => exact ih

@[simp] theorem ceAfter_frameOps (ce : Bool) (c : Byte) (outs : List ByteSource) (dsts : List ByteDest) (k : List MicroOp) :
    ceAfter ce (frameOps c outs dsts ++ k) = ceAfter ce k := by
  simp [frameOps, ceAfter]

@[simp] theorem ceAfter_writeRegOps (ce : Bool) (a : RegAddr) (outs : List ByteSource) (k : List MicroOp) :
    ceAfter ce (writeRegOps a outs ++ k) = ceAfter ce k := ceAfter_frameOps _ _ _ _ _

@[simp] theorem ceAfter_readRegOps (ce : Bool) (a : RegAddr) (dst : ByteDest) (k : List MicroOp) :
    ceAfter ce (readRegOps a dst ++ k) = ceAfter ce k := ceAfter_frameOps _ _ _ _ _

/-- The poll loop does not drive CE (R233, R234). -/
theorem ceAfter_resolve {s : State} (hf : framed s.csN s.seq = true) (ce : Bool) :
    ceAfter ce (resolve s) = ceAfter ce s.seq := by
  obtain hr | ⟨k, hk, hway⟩ := resolve_cases s
  · rw [hr]
  · obtain ⟨-, e, rfl⟩ := framed_poll hf hk
    have hseq : ceAfter ce s.seq = ce := by
      obtain hk | hk := hk <;> rw [hk] <;> rfl
    rw [hseq]
    obtain hr | ⟨-, hr⟩ | ⟨mask, b, hr⟩ := hway <;> rw [hr] <;> rfl

theorem ceAfter_primitive {op : MicroOp} {k : List MicroOp} {s t : State} (h : primitive op (s.withSeq k) = .next t) :
    ceAfter t.ce t.seq = ceAfter s.ce (op :: k) := by
  cases op with
  | out src => obtain ⟨b, rfl⟩ := primitive_out h; rfl
  | read dst => cases h; simp [ceAfter]
  | finish e => cases h; simp [ceAfter]
  | driveCS l => cases h; rfl
  | driveCE l => cases h; rfl
  | cmd c => cases h; rfl
  | pollLoop => cases h; rfl
  | pollTest => cases h; rfl

theorem ceAfter_engineStep {s t : State} (h : s.Inv) (hp : s.phase = .run) (ht : engineStep s = .next t) :
    ceAfter t.ce t.seq = ceAfter s.ce s.seq := by
  have hf : framed s.csN s.seq = true := by simpa [hp] using h.procedure
  obtain ⟨-, rfl⟩ | ⟨hp', -⟩ | ⟨-, -, rfl⟩ | ⟨-, -, op, k, hr, ht⟩ | ⟨-, -, -, rfl⟩ := engineStep_cases ht
  · rfl
  · simp [hp'] at hp
  · rfl
  · rw [← ceAfter_resolve hf, hr]
    exact ceAfter_primitive ht
  · rfl

/-- With no reset, no move changes where CE will be when the running command has ended. -/
theorem ceAfter_move {s t : State} (h : s.Inv) (hno : s.noReset) (hp : s.phase = .run) (ht : move s = .next t) :
    ceAfter t.ce t.seq = ceAfter s.ce s.seq ∧ t.noReset := by
  obtain ⟨e, he, ht⟩ | ⟨e, he, -⟩ | ⟨x, e, he, rfl⟩ | ⟨x, e, b, he, rfl⟩ := move_run_cases hp ht
  · obtain ⟨-, henv, -⟩ := engineStep_frame ht
    have hno' : (s.withEnv e).noReset := by
      obtain rfl | ⟨x, he⟩ := he
      · exact hno
      · exact noReset_tail hno he
    exact ⟨ceAfter_engineStep (s := s.withEnv e) (h.withEnv e) hp ht, by unfold State.noReset; rw [henv]; exact hno'⟩
  · exact absurd he (noReset_head hno)
  · exact ⟨rfl, noReset_tail hno he⟩
  · exact ⟨rfl, noReset_tail hno he⟩

/-- With no reset, CE after a host command is where its procedure leaves it. -/
theorem exec_host_ce {s t : State} {i : Instr} {w : Word} (hs : s.Inv) (hno : s.noReset) (hidle : s.phase = .idle)
    (hi : encode i = .host w) (h : exec i s = .next t) : t.ce = ceAfter s.ce (procedureOf s.cfg i) := by
  have hend := everyCommandEnds s t i w hs hidle hi h
  obtain ⟨n, hle, hn⟩ := beforeAccept_eq i s
  have haccept := (hs.fewerPolls hle).accept hidle w (framed_procedureOf s.cfg hi) (pollReads_procedureOf s.cfg i)
  rw [exec_host hi, hn, hostCommand, if_pos hidle] at h
  obtain ⟨hinv, -, hce⟩ := runUntil_keeps
    (P := fun u => u.Inv ∧ u.noReset ∧ ceAfter u.ce u.seq = ceAfter s.ce (procedureOf s.cfg i)) commandDone
    (fun u v hu hd hm => by
      obtain ⟨hinv, hnou, hce⟩ := hu
      obtain ⟨hv, hnov⟩ := ceAfter_move hinv hnou (run_of_commandDone_eq_false hd) hm
      exact ⟨hinv.move hm, hnov, hv.trans hce⟩)
    _ _ t ⟨haccept, hno, rfl⟩ h
  have hseq : t.seq = [] := by simpa [hend] using hinv.procedure
  rw [hseq] at hce
  exact hce

/-- Settles O55: CE is where the command's procedure leaves it, and the procedures say where. -/
theorem chipEnableAfterEveryCommand : Obligations.ChipEnableAfterEveryCommand := by
  intro s t i w hs hno hidle hi h
  rw [exec_host_ce hs hno hidle hi h]
  cases i with
  | rRegister | wRegister | wTxPayload | rRxPayload => cases hi
  | openReadingPipe v =>
    simp only [procedureOf, procOpenReadingPipe]
    split <;> simp [ceAfter]
  | writePayload len =>
    simp only [procedureOf, procWritePayload]
    split_ifs <;> simp [ceAfter]
  | readPayload len =>
    simp only [procedureOf, procReadPayload]
    split_ifs <;> simp [ceAfter]
  | beginRadio => rfl
  | _ =>
    simp [procedureOf, procWriteReg, procReadReg, procSetChannel, procSetPaLevel, procOpenWritingPipe, procStartListening,
      procStopListening, procAvailable, ceAfter]

/-! ### The latches (R37-R39) -/

/-- No run step writes a parameter or a latch of the host's (R38, R39, R86). -/
theorem RunStep.frame {A : MicroOp → Prop} {s t : State} (h : RunStep A s t) :
    t.addrl = s.addrl ∧ t.txb = s.txb ∧ t.cfg = s.cfg := by
  cases h with
  | op _ ht =>
    obtain ⟨hcfg, -, -, haddrl, htxb⟩ := primitive_frame ht
    exact ⟨haddrl, htxb, hcfg⟩
  | reset he => simp
  | sched he => exact ⟨rfl, rfl, rfl⟩
  | tick => exact ⟨rfl, rfl, rfl⟩
  | rf x => exact ⟨rfl, rfl, rfl⟩
  | got b => exact ⟨rfl, rfl, rfl⟩

/-- The run of a frame from its command byte: what holds after the command byte and is kept by every run step holds at its end. -/
theorem spiFrame_keeps {P : State → Prop} {c : Byte} {s t : State}
    (hP : ∀ u v, u.phase = .run → P u → RunStep (fun _ => True) u v → P v) (hs : P s)
    (hstart : P (commandByte c (s.withSeq s.seq.tail))) (h : spiFrame c s = .next t) : P t := by
  unfold spiFrame at h
  split at h
  · exact runUntil_run_keeps (A := fun _ => True) (fun _ _ _ _ => trivial) hP (fun _ => run_of_frameDone_eq_false) hstart
      (fun _ _ => trivial) h
  · cases h; exact hs

/-- Settles O56: an instruction is run steps from its accept or its command byte, and none of them writes these. -/
theorem instructionsLeaveTheHostLatches : Obligations.InstructionsLeaveTheHostLatches := by
  intro i s t h
  have hkeeps : ∀ {A : MicroOp → Prop} (u v : State), u.phase = .run →
      (u.addrl = s.addrl ∧ u.txb = s.txb ∧ u.cfg = s.cfg) → RunStep A u v →
      v.addrl = s.addrl ∧ v.txb = s.txb ∧ v.cfg = s.cfg := by
    intro A u v _ hu hstep
    obtain ⟨haddrl, htxb, hcfg⟩ := hstep.frame
    rw [haddrl, htxb, hcfg]
    exact hu
  cases hi : encode i with
  | host w =>
    by_cases hidle : s.phase = .idle
    · exact exec_host_keeps hkeeps hi hidle (fun _ => ⟨rfl, rfl, rfl⟩) h
    · obtain ⟨n, rfl⟩ := exec_host_waits hi hidle h
      exact ⟨rfl, rfl, rfl⟩
  | spi c =>
    rw [exec_spi hi] at h
    exact spiFrame_keeps (P := fun u => u.addrl = s.addrl ∧ u.txb = s.txb ∧ u.cfg = s.cfg) hkeeps ⟨rfl, rfl, rfl⟩
      ⟨rfl, rfl, rfl⟩ h

/-- READ_REG alone has the ending that writes RDATA (R37, R141). -/
theorem readReg_of_data_mem {p : Params} {i : Instr} (h : .data ∈ endingsOf p i) : ∃ a, i = .readReg a := by
  cases i with
  | readReg a => exact ⟨a, rfl⟩
  | writePayload len =>
    simp only [endingsOf] at h
    split_ifs at h <;> simp at h
  | openReadingPipe v =>
    simp only [endingsOf, List.mem_singleton] at h
    split_ifs at h
  | readPayload len =>
    simp only [endingsOf, List.mem_singleton] at h
    split_ifs at h
  | _ => simp [endingsOf] at h

/-- With no reset, no run step of a command other than READ_REG writes RDATA. -/
theorem RunStep.rdata {p : Params} {i : Instr} {s t : State} (h : RunStep (mayDo p i) s t) (hi : ∀ a, i ≠ .readReg a)
    (hno : s.noReset) : t.rdata = s.rdata := by
  cases h with
  | @op o k t ho ht =>
    cases o with
    | finish e =>
      cases ht
      refine endStep_rdata _ ?_
      rintro rfl
      obtain ⟨a, ha⟩ := readReg_of_data_mem ho
      exact hi a ha
    | out src => obtain ⟨b, rfl⟩ := primitive_out ht; rfl
    | read dst => cases ht; simp
    | driveCS l => cases ht; rfl
    | driveCE l => cases ht; rfl
    | cmd c => cases ht; rfl
    | pollLoop => cases ht; rfl
    | pollTest => cases ht; rfl
  | reset he => exact absurd he (noReset_head hno)
  | sched he => rfl
  | tick => rfl
  | rf x => rfl
  | got b => rfl

/-- No run step writes a byte of RXB but one of READ_PAYLOAD below its length (R39, R261). -/
theorem RunStep.rxb {p : Params} {i : Instr} {s t : State} (h : RunStep (mayDo p i) s t) {k : Nat}
    (hk : ∀ len, i = .readPayload len → len.toNat ≤ k) : t.rxb[k]? = s.rxb[k]? := by
  cases h with
  | @op o l t ho ht =>
    cases o with
    | read dst =>
      cases ht
      cases dst with
      | rxb j =>
        obtain ⟨len, hi, hj⟩ := ho
        have := hk len hi
        exact List.getElem?_set_ne (by omega)
      | tmp => rfl
      | poll => rfl
    | out src => obtain ⟨b, rfl⟩ := primitive_out ht; rfl
    | finish e => cases ht; simp
    | driveCS l => cases ht; rfl
    | driveCE l => cases ht; rfl
    | cmd c => cases ht; rfl
    | pollLoop => cases ht; rfl
    | pollTest => cases ht; rfl
  | reset he => simp
  | sched he => rfl
  | tick => rfl
  | rf x => rfl
  | got b => rfl

/-- A host command leaves every byte of RXB that is not below READ_PAYLOAD's length. -/
theorem exec_host_rxb {s t : State} {i : Instr} {w : Word} (hi : encode i = .host w) (hidle : s.phase = .idle)
    (h : exec i s = .next t) {k : Nat} (hk : ∀ len, i = .readPayload len → len.toNat ≤ k) : t.rxb[k]? = s.rxb[k]? :=
  exec_host_keeps (P := fun u => u.rxb[k]? = s.rxb[k]?) (fun _ _ _ hu hstep => (hstep.rxb hk).trans hu) hi hidle
    (fun _ => rfl) h

/-- Settles O57: RDATA is written by READ_REG's ending alone, RXB by READ_PAYLOAD's reads alone. -/
theorem resultLatchesAndTheirWriters : Obligations.ResultLatchesAndTheirWriters := by
  intro s t i w hi h
  refine ⟨fun hread hno => ?_, fun hread hidle => ?_, fun len k hlen hidle hk => ?_⟩
  · by_cases hidle : s.phase = .idle
    · exact (exec_host_keeps (P := fun u => u.noReset ∧ u.rdata = s.rdata)
        (fun _ _ _ hu hstep => ⟨hstep.noReset hu.1, (hstep.rdata hread hu.1).trans hu.2⟩) hi hidle (fun _ => ⟨hno, rfl⟩) h).2
    · obtain ⟨n, rfl⟩ := exec_host_waits hi hidle h
      rfl
  · exact List.ext_getElem? fun k => exec_host_rxb hi hidle h fun len hlen => absurd hlen (hread len)
  · refine exec_host_rxb hi hidle h fun len' hlen' => ?_
    obtain rfl : len = len' := by simpa [hlen] using hlen'
    exact hk

end Sys2Proof.Machine

/-! The radio under the engine's steps, the waiting host, host reads, RF steps and reset. -/

namespace Sys2Proof.Machine

/-! ### The radio under the engine's steps (R46, R51, R154) -/

/-- A step of the engine leaves the radio, or is one of its reactions to a bus event (R50). -/
theorem engineStep_radio {s t : State} (h : engineStep s = .next t) :
    t.radio = s.radio ∨ (∃ l, t.radio = (s.react (Radio.onCS l)).radio) ∨ (∃ l, t.radio = (s.react (Radio.onCE l)).radio)
      ∨ ∃ m, t.radio = (s.react (Radio.onXfer s.cfg m)).radio := by
  obtain ⟨-, rfl⟩ | ⟨-, rfl⟩ | ⟨-, -, rfl⟩ | ⟨-, -, op, k, -, ht⟩ | ⟨-, -, -, rfl⟩ := engineStep_cases h
  · exact .inl rfl
  · exact .inl (resetTick_radio s)
  · exact .inl rfl
  · cases op with
    | driveCS l => cases ht; exact .inr (.inl ⟨l, rfl⟩)
    | driveCE l => cases ht; exact .inr (.inr (.inl ⟨l, rfl⟩))
    | cmd c => cases ht; exact .inr (.inr (.inr ⟨c, rfl⟩))
    | out src => obtain ⟨b, rfl⟩ := primitive_out ht; exact .inr (.inr (.inr ⟨b, rfl⟩))
    | read dst => cases ht; exact .inr (.inr (.inr ⟨readFill, readDataByte_radio _ dst⟩))
    | finish e => cases ht; exact .inl (endStep_radio _ e)
    | pollLoop => cases ht; exact .inl rfl
    | pollTest => cases ht; exact .inl rfl
  · exact .inl rfl

/-- Every STATUS flag set in `r` is set in `q`. -/
def Radio.FlagsWithin (r q : Radio) : Prop :=
  (r.fTxDs = true → q.fTxDs = true) ∧ (r.fMaxRt = true → q.fMaxRt = true) ∧ (r.fRxDr = true → q.fRxDr = true)

theorem Radio.FlagsWithin.refl (r : Radio) : r.FlagsWithin r := ⟨id, id, id⟩

/-- Write-1-to-clear sets no flag (R154). -/
theorem Radio.w1c_flags (p : Params) (v : Byte) (r : Radio) : (w1c p v r).FlagsWithin r :=
  ⟨fun h => (Bool.and_eq_true_iff.1 h).1, fun h => (Bool.and_eq_true_iff.1 h).1, fun h => (Bool.and_eq_true_iff.1 h).1⟩

theorem Radio.writeAt_flags (p : Params) (a : RegAddr) (k : Nat) (m : Byte) (r : Radio) : (r.writeAt p a k m).FlagsWithin r := by
  unfold Radio.writeAt
  split
  · split_ifs <;> exact .refl r
  · split_ifs
    · exact w1c_flags p m r
    · exact .refl r
  · exact .refl r
  · exact .refl r

theorem Radio.onXfer_flags (p : Params) (m : Byte) (r : Radio) : (r.onXfer p m).FlagsWithin r := by
  unfold Radio.onXfer
  split_ifs
  · split
    · unfold Radio.onCommand
      split <;> exact .refl r
    · exact .refl r
    · exact writeAt_flags p _ r.fidx m r
    · exact .refl r
    · exact .refl r
  · exact .refl r

theorem Radio.onCS_flags (l : Bool) (r : Radio) : (r.onCS l).FlagsWithin r := by
  unfold Radio.onCS; split <;> exact .refl r

theorem Radio.onCE_flags (l : Bool) (r : Radio) : (r.onCE l).FlagsWithin r := by
  cases l <;> exact .refl r

/-- Settles O18: of the radio's reactions to the bus only the write-1-to-clear touches the flags, and it clears. -/
theorem engineNeverSetsAFlag : Obligations.EngineNeverSetsAFlag := by
  intro s t h hk
  have hreact : ∀ f : Radio → Radio, (f s.radio).FlagsWithin s.radio → t.radio = (s.react f).radio →
      t.radio.FlagsWithin s.radio := by
    intro f hf ht
    rw [ht] at hk ⊢
    rwa [(react_radio_of_known hk).2]
  obtain ht | ⟨l, ht⟩ | ⟨l, ht⟩ | ⟨m, ht⟩ := engineStep_radio h
  · rw [ht]; exact Radio.FlagsWithin.refl _
  · exact hreact _ (Radio.onCS_flags l _) ht
  · exact hreact _ (Radio.onCE_flags l _) ht
  · exact hreact _ (Radio.onXfer_flags s.cfg m _) ht

theorem engineStep_keeps_unknown {s t : State} (hs : s.radio.radioUnknown = true) (h : engineStep s = .next t) :
    t.radio.radioUnknown = true := by
  obtain ht | ⟨l, ht⟩ | ⟨l, ht⟩ | ⟨m, ht⟩ := engineStep_radio h <;> rw [ht]
  · exact hs
  · exact react_keeps_unknown _ hs
  · exact react_keeps_unknown _ hs
  · exact react_keeps_unknown _ hs

theorem resetLines_keeps_unknown {s : State} (hs : s.radio.radioUnknown = true) : (resetLines s).radio.radioUnknown = true := by
  rw [resetLines_eq]
  split_ifs
  · exact react_keeps_unknown _ hs
  · exact react_keeps_unknown _ (react_keeps_unknown _ hs)
  · exact hs
  · exact react_keeps_unknown _ hs

/-- Settles O58: every change of the radio, by whichever agent, is a reaction, and no reaction loses the mark. -/
theorem refusalMarkIsSticky : Obligations.RefusalMarkIsSticky := by
  intro s t h hs
  exact step_keeps (P := fun u => u.radio.radioUnknown = true)
    (hengine := fun _ _ => engineStep_keeps_unknown)
    (henv := fun _ _ _ hu _ => hu)
    (hreset := fun u e hu _ => resetLines_keeps_unknown (s := u.withEnv e) hu)
    (hrf := fun u _ e hu _ => react_keeps_unknown (s := u.withEnv e) _ hu)
    (hhost := fun u _ e v hu _ _ hv => by
      obtain ⟨-, rfl⟩ | ⟨w, -, rfl⟩ | ⟨i, b, -, rfl⟩ | ⟨i, b, -, rfl⟩ | ⟨r, b, -, rfl⟩ := hostStep_cases hv <;> exact hu)
    (hpoll := fun _ hu _ => hu)
    (haccept := fun _ _ _ hu _ _ _ => hu)
    (hbad := fun _ _ hu _ => hu)
    hs h

/-! ### Decoding of command bytes (R105, R106) -/

/-- Settles O4: the ranges are the bytes that none of the four patterns takes, and an undecoded byte sets the mark. -/
theorem unlistedCommandBytes : Obligations.UnlistedCommandBytes := by
  refine ⟨fun c => ?_, fun p c e r he hin hf => ?_⟩
  · have hranges : ∀ c : Byte, (decodeSpi c).toOption = none
        ↔ ((0x40#8 ≤ c ∧ c ≤ 0x60#8) ∨ (0x62#8 ≤ c ∧ c ≤ 0x9F#8) ∨ 0xA1#8 ≤ c) := by decide
    rw [← hranges]
    cases decodeSpi c <;> simp [Except.toOption]
  · simp [Radio.onXfer, Radio.onCommand, hin, hf, he]

/-! ### What the engine's turn is -/

/-- The engine's turn, said once: a command accepted and run, a frame run from its command byte, or one step of the engine. -/
theorem engineTurn_cases {s t : State} (h : engineTurn s = .next t) :
    (s.phase = .idle ∧ ∃ w ops n, runCommand (accept w ops { s with pollCnt := n }) = .next t)
    ∨ (∃ c, spiFrame c s = .next t)
    ∨ engineStep s = .next t := by
  unfold engineTurn at h
  split at h
  · next w hidle hw =>
    refine .inl ⟨hidle, ?_⟩
    split at h
    · next i hd =>
      obtain ⟨v, hv⟩ := encode_decodeHost hd
      obtain ⟨n, -, hn⟩ := beforeAccept_eq i s
      rw [exec_host hv, hn, hostCommand, if_pos hidle] at h
      exact ⟨_, _, n, h⟩
    · rw [badCommand, hostCommand, if_pos hidle] at h
      exact ⟨_, _, s.pollCnt, h⟩
  · split at h
    · next c _ =>
      split at h
      · next i hd =>
        rw [exec_spi (encode_decodeSpi hd)] at h
        exact .inr (.inl ⟨c, h⟩)
      · exact .inr (.inr h)
    · exact .inr (.inr h)

/-! ### The waiting host (R33, R119, R299) -/

/-- The host steps that wait until no command runs or is pending. -/
def HostStep.Waits (h : HostStep) : Prop := h = .await ∨ ∃ w, h = .issue w

theorem HostStep.Waits.not_enabled {h : HostStep} (hw : h.Waits) {s : State} (hs : s.phase ≠ .idle ∨ s.cmdw ≠ none) :
    hostEnabled h s = false := by
  obtain rfl | ⟨w, rfl⟩ := hw <;>
  · simp only [hostEnabled, Bool.and_eq_false_iff, decide_eq_false_iff_not, Option.isNone_eq_false_iff,
      ← Option.ne_none_iff_isSome]
    exact hs

/-- A host step with no move leaves the turn to the engine. -/
theorem scheduled_waits {engine : State → Result} {s : State} {h : HostStep} {e : List EnvStep} (he : s.env = .host h :: e)
    (hen : hostEnabled h s = false) : scheduled engine s = engine s := by
  simp [scheduled, he, hen]

/-- A run inside a command, the host waiting at the head of the schedule, leaves the schedule, the pending word and the
latches. -/
theorem runUntil_waits {done : State → Bool} (hdone : ∀ u, done u = false → u.phase = .run) {n : Nat} {s t : State}
    {h : HostStep} {e : List EnvStep} (he : s.env = .host h :: e) (hw : h.Waits) (ht : runUntil done n s = .next t) :
    t.env = s.env ∧ t.cmdw = s.cmdw ∧ t.addrl = s.addrl ∧ t.txb = s.txb := by
  refine runUntil_keeps (P := fun u => u.env = s.env ∧ u.cmdw = s.cmdw ∧ u.addrl = s.addrl ∧ u.txb = s.txb) done ?_ n s t
    ⟨rfl, rfl, rfl, rfl⟩ ht
  intro u v hu hd hm
  obtain ⟨henv, hu⟩ := hu
  rw [move, scheduled_waits (henv.trans he) (hw.not_enabled (.inl (by simp [hdone u hd])))] at hm
  obtain ⟨-, henv', hcmdw, haddrl, htxb⟩ := engineStep_frame hm
  rw [henv', hcmdw, haddrl, htxb]
  exact ⟨henv, hu⟩

/-- A turn of the engine, the host waiting at the head of the schedule, leaves the schedule and the host's latches; it leaves the
pending word unless it accepts it. -/
theorem engineTurn_waits {s t : State} {h : HostStep} {e : List EnvStep} (he : s.env = .host h :: e) (hw : h.Waits)
    (ht : engineTurn s = .next t) :
    t.env = s.env ∧ (s.phase ≠ .idle → t.cmdw = s.cmdw) ∧ t.addrl = s.addrl ∧ t.txb = s.txb := by
  obtain ⟨hidle, w, ops, n, ht⟩ | ⟨c, ht⟩ | ht := engineTurn_cases ht
  · obtain ⟨henv, -, haddrl, htxb⟩ := runUntil_waits (fun _ => run_of_commandDone_eq_false)
      (s := accept w ops { s with pollCnt := n }) he hw ht
    exact ⟨henv, fun hp => absurd hidle hp, haddrl, htxb⟩
  · unfold spiFrame at ht
    split at ht
    · obtain ⟨henv, hcmdw, haddrl, htxb⟩ := runUntil_waits (fun _ => run_of_frameDone_eq_false)
        (s := commandByte c (s.withSeq s.seq.tail)) he hw ht
      exact ⟨henv, fun _ => hcmdw, haddrl, htxb⟩
    · cases ht
      exact ⟨rfl, fun _ => rfl, rfl, rfl⟩
  · obtain ⟨-, henv, hcmdw, haddrl, htxb⟩ := engineStep_frame ht
    exact ⟨henv, fun _ => hcmdw, haddrl, htxb⟩

/-- A step of the machine, the host waiting at the head of the schedule. -/
theorem step_waits {s t : State} {h : HostStep} {e : List EnvStep} (he : s.env = .host h :: e) (hw : h.Waits)
    (hs : s.phase ≠ .idle ∨ s.cmdw ≠ none) (ht : step s = .next t) :
    t.env = s.env ∧ (s.phase ≠ .idle → t.cmdw = s.cmdw) ∧ t.addrl = s.addrl ∧ t.txb = s.txb := by
  rw [step, scheduled_waits he (hw.not_enabled hs)] at ht
  exact engineTurn_waits he hw ht

/-- A host step that has a move and stands at the head of the schedule is the step of the machine (R83). -/
theorem step_host {s : State} {h : HostStep} {e : List EnvStep} (he : s.env = .host h :: e) (hen : hostEnabled h s = true) :
    step s = hostStep h (s.withEnv e) := by
  simp [step, scheduled, he, hen]

/-- Settles O43: outside IDLE the issue has no move, and the engine's turn leaves the schedule and CMDW. -/
theorem issueWaitsUntilIdle : Obligations.IssueWaitsUntilIdle := by
  intro s w e he
  refine ⟨fun hp t ht => ?_, fun hp hc => ?_⟩
  · obtain ⟨henv, hcmdw, -⟩ := step_waits he (.inr ⟨w, rfl⟩) (.inl hp) ht
    exact ⟨henv, hcmdw hp⟩
  · rw [step_host he (by simp [hostEnabled, hp, hc])]
    rfl

/-- A line of a program begins with a host step that waits (R119). -/
theorem assemble_head {n : Nat} {line : AsmLine} {steps : List HostStep} (h : AsmLine.assemble n line = some steps) :
    ∃ x rest, steps = x :: rest ∧ x.Waits := by
  unfold AsmLine.assemble at h
  split_ifs at h
  split at h
  · cases h; exact ⟨_, _, rfl, .inl rfl⟩
  · cases h; exact ⟨_, _, rfl, .inl rfl⟩
  · cases h; exact ⟨_, _, rfl, .inr ⟨_, rfl⟩⟩
  all_goals
    cases h; exact ⟨_, _, rfl, .inr ⟨_, rfl⟩⟩

/-- Settles O60: a line begins with a step that waits, and while it waits the engine's turn leaves schedule and latches. -/
theorem linesWaitForTheCommandBefore : Obligations.LinesWaitForTheCommandBefore := by
  intro s t line steps e hline henv hs ht
  obtain ⟨x, rest, rfl, hx⟩ := assemble_head hline
  obtain ⟨henv', -, haddrl, htxb⟩ := step_waits (e := rest.map .host ++ e) henv hx hs ht
  exact ⟨henv', haddrl, htxb⟩

/-! ### Host reads (R32, R34, R37, R290) -/

theorem bitByte_eq (b : Bool) : bitByte b = if b then 1#8 else 0#8 := by cases b <;> rfl

theorem rcode_byte (c : ResultCode) :
    c.bits.setWidth 8 = match c with | .ok => 0#8 | .errCmd => 1#8 | .errPipe => 2#8 | .errLen => 3#8 := by
  cases c <;> rfl

/-- A read of RCODE, RFLAG or RDATA while RVALID is 0 (R34, R290 c). -/
theorem readResult_invalid {s : State} (h : s.rvalid = false) (b : Byte) : readResult b s = .refused .resultNotValid := by
  simp [readResult, h]

theorem readResult_valid {s : State} (h : s.rvalid = true) (b : Byte) : readResult b s = hostGot b s := by
  simp [readResult, h]

/-- Settles O44: a read at the head of the schedule is the host's move, each register by its own rule. -/
theorem hostReadsAndTheirStops : Obligations.HostReadsAndTheirStops := by
  intro s x e he
  have hread : ∀ y, x = y → hostEnabled (.read y) s = true → step s = hostRead y (s.withEnv e) := by
    rintro y rfl hen
    exact step_host he hen
  refine ⟨?_, ?_, ?_, ?_, ?_, ?_, ?_, ?_⟩
  · rintro hv (hx | hx | hx) <;>
    · rw [hread _ hx rfl]
      exact readResult_invalid (s := s.withEnv e) hv _
  · intro hv hx
    rw [hread _ hx rfl]
    exact readResult_valid (s := s.withEnv e) hv _
  · intro hv hx
    rw [hread _ hx rfl, ← bitByte_eq]
    exact readResult_valid (s := s.withEnv e) hv _
  · intro hv hx
    rw [hread _ hx rfl]
    refine (readResult_valid (s := s.withEnv e) hv _).trans ?_
    simp only [withEnv_rcode, rcode_byte]
    rfl
  · intro hx
    rw [hread _ hx rfl]
    rfl
  · intro hx
    rw [hread _ hx rfl, ← bitByte_eq]
    rfl
  · intro i b hp hx hb
    rw [hread _ hx (by simp [hostEnabled, hp])]
    simp only [hostRead, readLatch, State.latch, withEnv_rxb, hb]
    rfl
  · intro i hp hx hb
    rw [hread _ hx (by simp [hostEnabled, hp])]
    simp only [hostRead, readLatch, State.latch, withEnv_rxb, hb]
    rfl

/-! ### RF steps (R292, R293) -/

theorem rfStep_known (p : Params) (x : RfStep) (r : Radio) : (rfStep p x r).radioUnknown = r.radioUnknown := by
  unfold rfStep
  split_ifs
  · cases x <;> rfl
  · rfl

/-- A step of RF on a known radio changes the radio as the RF step says, and uses one entry and one draw. -/
theorem step_rf {s : State} {x : RfStep} {e : List EnvStep} (he : s.env = .rf x :: e) (hk : s.radio.radioUnknown = false) :
    step s = .next { s with env := e, draws := s.draws + 1, radio := rfStep s.cfg x s.radio } := by
  have hradio : ((s.withEnv e).react (rfStep s.cfg x)).radio = rfStep s.cfg x s.radio :=
    react_radio_known hk ((rfStep_known s.cfg x s.radio).trans hk)
  have hstep : step s = .next ((s.withEnv e).react (rfStep s.cfg x)) := by simp [step, scheduled, he]
  rw [hstep, ← hradio]
  rfl

/-- Settles O42: under RF_CAUSAL each step of RF has its own condition, and a step without it does nothing. -/
theorem rfStepsUnderRfCausal : Obligations.RfStepsUnderRfCausal := by
  intro s x e he hc hk
  rw [step_rf he hk]
  cases x with
  | txDone => simp [rfStep, rfEnabled, rfEffect, hc]
  | txFail => simp [rfStep, rfEnabled, rfEffect, hc]
  | rx b => simp [rfStep, rfEnabled, rfEffect, hc, Radio.listening]
  | txDrop => simp [rfStep, rfEnabled, hc]

/-! ### Reset (R53, R312) -/

theorem run_next {s t : State} (n : Nat) (h : step s = .next t) : Host.Core.run core (n + 1) s = Host.Core.run core n t := by
  have hcore : core.step s = .next t := h
  simp [Host.Core.run, hcore]

/-- A step of RESET_SETTLE with no entry of the schedule (R312). -/
theorem step_resetSettle {s : State} (hp : s.phase = .resetSettle) (he : s.env = []) : step s = .next (resetTick s) := by
  simp [step, scheduled, he, engineTurn, hp, atCommandByte, engineStep]

/-- RESET_SETTLE runs the ticks that are left, the last of which sets IDLE (R312; log entry 15). -/
theorem run_resetSettle (n : Nat) {s : State} (hp : s.phase = .resetSettle) (hn : s.settleCnt = n + 1) (he : s.env = []) :
    Host.Core.run core (n + 1) s
      = .next { s with phase := .idle, busy := false, settleCnt := 0, trace := List.replicate (n + 1) .tick ++ s.trace } := by
  induction n generalizing s with
  | zero =>
    rw [run_next 0 (step_resetSettle hp he)]
    simp [Host.Core.run, resetTick, hn, settleTick]
  | succ n ih =>
    have htick : resetTick s = settleTick s := by simp [resetTick, hn]
    rw [run_next (n + 1) (step_resetSettle hp he), htick, ih (s := settleTick s) hp (by simp [hn]) he]
    simp [settleTick, List.replicate_succ', List.append_assoc]

/-- Settles O45: the values are `resetWith`'s own, and RESET_SETTLE runs SETTLE_TICKS ticks. -/
theorem resetValues : Obligations.ResetValues := by
  rintro p r s rfl hp
  obtain ⟨n, hn⟩ := Nat.exists_eq_succ_of_ne_zero (Nat.one_le_iff_ne_zero.1 hp)
  have hrun := run_resetSettle n (s := State.resetWith p r) rfl hn rfl
  refine ⟨rfl, rfl, rfl, rfl, rfl, rfl, rfl, rfl, rfl, rfl, rfl, rfl, rfl, rfl, rfl, rfl, ?_, rfl, rfl, rfl, ?_⟩
  · intro i
    simp [State.resetWith]
  · rw [hn, hrun, settleTrace, hn]
    simp [State.resetWith]

/-! ### Chip-enable as the radio sees it (R240) -/

/-- Settles O32: a rise is noted where CE was low, and the fall after it counts a trigger. -/
theorem chipEnableObservation : Obligations.ChipEnableObservation := by
  intro r
  refine ⟨?_, rfl, fun hce hprim htxq => ?_⟩
  · cases hce : r.ceSeen <;> simp [Radio.onCE, hce]
  · have hbit : r.reg1[0][0] = false := by simpa using hprim
    simp [Radio.onCE, hce, hbit, htxq]

/-! ### The step at an instruction (R31, R113, R130) -/

theorem step_engine_turn (s : State) :
    (s.env = [] → step s = engineTurn s) ∧ (∀ e, s.env = .engine :: e → step s = engineTurn (s.withEnv e)) :=
  ⟨fun he => by simp [step, scheduled, he], fun e he => by simp [step, scheduled, he]⟩

theorem engineTurn_host {s : State} {w : Word} {i : Instr} (hp : s.phase = .idle) (hw : s.cmdw = some w)
    (hd : decodeHost w = .ok i) : engineTurn s = exec i s := by
  simp [engineTurn, hp, hw, hd]

theorem engineTurn_spi {s : State} {c : Byte} {k : List MicroOp} {i : Instr} (hp : s.phase = .run) (h0 : s.settleCnt = 0)
    (hs : s.seq = .cmd c :: k) (hd : decodeSpi c = .ok i) : engineTurn s = exec i s := by
  simp [engineTurn, atCommandByte, hp, h0, hs, hd]

/-- Settles O9: the schedule gives the engine its turn, and the engine's turn at an instruction is its execution. -/
theorem stepRunsTheDecodedInstruction : Obligations.StepRunsTheDecodedInstruction := by
  refine ⟨fun s w i hp hw hd => ?_, fun s c k i hp h0 hs hd => ?_⟩
  · obtain ⟨hquiet, hturn⟩ := step_engine_turn s
    exact ⟨fun he => (hquiet he).trans (engineTurn_host hp hw hd),
      fun e he => (hturn e he).trans (engineTurn_host (s := s.withEnv e) hp hw hd)⟩
  · obtain ⟨hquiet, hturn⟩ := step_engine_turn s
    exact ⟨fun he => (hquiet he).trans (engineTurn_spi hp h0 hs hd),
      fun e he => (hturn e he).trans (engineTurn_spi (s := s.withEnv e) hp h0 hs hd)⟩

/-- Settles O10: the accepted BAD word's procedure is the error ending alone. -/
theorem badWordEndsWithErrCmd : Obligations.BadWordEndsWithErrCmd := by
  intro s w e hp h0 he hw hd
  have hturn : engineTurn s = badCommand w s := by simp [engineTurn, hp, hw, hd]
  rw [(step_engine_turn s).1 he, hturn]
  exact hostCommand_error w .errCmd hp h0 he

end Sys2Proof.Machine

/-! Host commands as wholes on a quiet machine, and the latch directives. -/

namespace Sys2Proof.Machine

/-! ### Latch directives (R119, R38, R39, R87) -/

/-- A host step with a move, at the head of a host program, is one step of the machine's run. -/
theorem run_host {h : HostStep} {e : List EnvStep} {s t : State} (n : Nat) (hen : hostEnabled h s = true)
    (ht : hostStep h (s.withEnv e) = .next t) :
    Host.Core.run core (n + 1) (s.withEnv (.host h :: e)) = Host.Core.run core n t :=
  run_next n ((step_host (s := s.withEnv (.host h :: e)) rfl hen).trans ht)

/-- The host steps that write `bytes` to a latch from index `k` on. -/
def latchSteps (write : Nat → Byte → HostStep) (bytes : List Byte) (k : Nat) : List EnvStep :=
  (bytes.zipIdx k).map (fun x => .host (write x.2 x.1))

@[simp] theorem latchSteps_cons (write : Nat → Byte → HostStep) (b : Byte) (bytes : List Byte) (k : Nat) :
    latchSteps write (b :: bytes) k = .host (write k b) :: latchSteps write bytes (k + 1) := by
  simp [latchSteps, List.zipIdx_cons]

/-- Writes to TXB store their bytes from index `k` on (R39). -/
theorem run_writeTxb (bytes : List Byte) (k : Nat) {s : State} (hp : s.phase = .idle) (hlen : k + bytes.length ≤ s.txb.length) :
    Host.Core.run core bytes.length (s.withEnv (latchSteps .writeTxb bytes k))
      = .next { s with txb := storeLatch bytes k s.txb, env := [] } := by
  induction bytes generalizing k s with
  | nil => rfl
  | cons b bytes ih =>
    simp only [List.length_cons] at hlen
    have hwrite : hostStep (.writeTxb k b) (s.withEnv (latchSteps .writeTxb bytes (k + 1)))
        = .next (State.withEnv { s with txb := s.txb.set k (some b) } (latchSteps .writeTxb bytes (k + 1))) :=
      if_pos (show k < s.txb.length by omega)
    rw [latchSteps_cons]
    exact (run_host _ (by simp [hostEnabled, hp]) hwrite).trans
      (ih (k + 1) (s := { s with txb := s.txb.set k (some b) }) hp (by simp; omega))

/-- The five bytes of ADDRL with `bytes` stored from index `k` on. -/
def storeAddrl (bytes : List Byte) (k : Nat) (v : Vector (Option Byte) 5) : Vector (Option Byte) 5 :=
  match bytes with
  | []         => v
  | b :: bytes => storeAddrl bytes (k + 1) (v.setIfInBounds k (some b))

theorem storeAddrl_toList (bytes : List Byte) (k : Nat) (v : Vector (Option Byte) 5) :
    (storeAddrl bytes k v).toList = storeLatch bytes k v.toList := by
  induction bytes generalizing k v with
  | nil => rfl
  | cons b bytes ih => rw [storeAddrl, storeLatch, ih, Vector.toList_setIfInBounds]

/-- Five bytes fill ADDRL (R38). -/
theorem storeAddrl_full (bs : Vector Byte 5) (v : Vector (Option Byte) 5) : storeAddrl bs.toList 0 v = bs.map some := by
  apply Vector.toList_inj.1
  rw [storeAddrl_toList, storeLatch_eq _ _ _ (by simp), Vector.toList_map]
  simp

/-- Writes to ADDRL store their bytes from index `k` on (R38). -/
theorem run_writeAddrl (bytes : List Byte) (k : Nat) {s : State} (hp : s.phase = .idle) (hlen : k + bytes.length ≤ 5) :
    Host.Core.run core bytes.length (s.withEnv (latchSteps .writeAddrl bytes k))
      = .next { s with addrl := storeAddrl bytes k s.addrl, env := [] } := by
  induction bytes generalizing k s with
  | nil => rfl
  | cons b bytes ih =>
    simp only [List.length_cons] at hlen
    have hwrite : hostStep (.writeAddrl k b) (s.withEnv (latchSteps .writeAddrl bytes (k + 1)))
        = .next (State.withEnv { s with addrl := s.addrl.setIfInBounds k (some b) } (latchSteps .writeAddrl bytes (k + 1))) :=
      if_pos (by omega)
    rw [latchSteps_cons]
    exact (run_host _ (by simp [hostEnabled, hp]) hwrite).trans
      (ih (k + 1) (s := { s with addrl := s.addrl.setIfInBounds k (some b) }) hp (by omega))

/-- The host steps of a directive whose operands are bytes: the wait, then one write per byte (R119). -/
theorem latchWrites_bytes (write : Nat → Byte → HostStep) (bytes : List Byte) :
    (latchWrites write (bytes.map BitVec.toNat)).map EnvStep.host = .host .await :: latchSteps write bytes 0 := by
  simp [latchWrites, latchSteps, List.zipIdx_map, Function.comp_def]

theorem latchWrites_length (write : Nat → Byte → HostStep) (bytes : List Nat) :
    (latchWrites write bytes).length = bytes.length + 1 := by
  simp [latchWrites]

theorem fitsByte_toNat (bytes : List Byte) : (bytes.map BitVec.toNat).all fitsByte = true := by
  simp only [List.all_map, List.all_eq_true, Function.comp_apply, decide_eq_true_eq]
  exact fun b _ => Nat.le_of_lt_succ b.isLt

/-- The wait of a directive on an IDLE machine with nothing pending is over at once (R119). -/
theorem run_await {s : State} (hp : s.phase = .idle) (hc : s.cmdw = none) (n : Nat) (e : List EnvStep) :
    Host.Core.run core (n + 1) (s.withEnv (.host .await :: e)) = Host.Core.run core n (s.withEnv e) :=
  run_host n (by simp [hostEnabled, hp, hc]) rfl

/-- Settles O8: after the wait each byte is one host write, at the index of its place. -/
theorem directivesFillTheLatches : Obligations.DirectivesFillTheLatches := by
  refine ⟨fun s bs hp hc he => ⟨latchWrites .writeAddrl (bs.toList.map BitVec.toNat), ?_, ?_⟩,
    fun s bs hp hc he hlen htxb => ⟨latchWrites .writeTxb (bs.map BitVec.toNat), ?_, ?_⟩⟩
  · have hwf : (AsmLine.addr (bs.toList.map BitVec.toNat)).wellFormed s.cfg.payloadMax = true := by
      simp only [AsmLine.wellFormed, fitsByte_toNat, Bool.and_true]
      simp
    simp [AsmLine.assemble, hwf]
  · have hlen : bs.toList.length = 5 := by simp
    rw [latchWrites_bytes, latchWrites_length, List.length_map, run_await hp hc, run_writeAddrl _ 0 hp (by omega),
      storeAddrl_full, ← he]
  · have hwf : (AsmLine.txb (bs.map BitVec.toNat)).wellFormed s.cfg.payloadMax = true := by
      simp only [AsmLine.wellFormed, fitsByte_toNat, Bool.and_true]
      simpa using hlen
    simp [AsmLine.assemble, hwf]
  · rw [latchWrites_bytes, latchWrites_length, List.length_map, run_await hp hc, run_writeTxb _ 0 hp (by omega),
      storeLatch_eq _ _ _ (by omega), ← he]
    simp

/-! ### WRITE_REG to an unmapped address (R76, R51) -/

/-- The release of chip-select with its settling, whatever the radio makes of it. -/
theorem settled_driveCS {s : State} (h0 : s.settleCnt = 0) :
    settled (driveCS true s) = s.released (s.react (Radio.onCS true)).radio := by
  apply State.ext <;> simp [settled, State.released, settleTrace, h0]

/-- An exchange, whatever the radio makes of it. -/
theorem xfer_eq_exchanged (m : Byte) (s : State) : xfer m s = s.exchanged m (s.react (Radio.onXfer s.cfg m)).radio := rfl

/-- A frame that writes one byte to an unmapped address runs like any other and leaves the radio unknown (R76, R291). -/
theorem opsRun_writeReg_unmapped {s : State} (h : s.Still) {a : RegAddr} (v : Byte) (ha : regName a = .unmapped) :
    ∃ r : Radio, r.radioUnknown = true
      ∧ opsRun (writeRegOps a [.const v]) s = .ok (s.afterFrame (wcmd a) (sent (s.draws + 2) [v]) r) := by
  have hk := h.known
  have hmark : (Radio.onXfer s.cfg v (s.radio.within (.wReg a) 0 [])).radioUnknown = true := by
    simp [Radio.writeAt, ha]
  have hx : ((s.opened (wcmd a) (.wReg a)).react (Radio.onXfer s.cfg v)).radio.radioUnknown = true := by
    have hmark' : (Radio.onXfer s.cfg v (s.opened (wcmd a) (.wReg a)).radio).radioUnknown = true := hmark
    simp [State.react, hmark']
  refine ⟨((xfer v (s.opened (wcmd a) (.wReg a))).react (Radio.onCS true)).radio, react_keeps_unknown _ hx, ?_⟩
  simp only [writeRegOps, frameOps, List.map_cons, List.map_nil, List.append_nil, List.cons_append, List.nil_append]
  rw [opsRun_open (fc := .wReg a) h (decodeSpi_wcmd a) rfl]
  simp only [opsRun, opStep, sourceByte, Except.map]
  rw [settled_driveCS (s := xfer v (s.opened (wcmd a) (.wReg a))) h.settle]
  rw [xfer_eq_exchanged]
  simp [State.afterFrame, State.opened, State.exchanged, State.released, frameTrace, sent_cons, State.misoByte, Radio.miso, hk]

/-- Settles O12: the frame runs as any other, and its data byte sets the mark. -/
theorem writeRegUnmapped : Obligations.WriteRegUnmapped := by
  intro s a v h ha
  obtain ⟨r, hr, hframe⟩ := opsRun_writeReg_unmapped (.ofReady h (commandWord (.writeReg a v)) []) v (regName_unmapped ha)
  exact ⟨r, hr, hostCommand_ready h (isEvent_writeRegOps a _) (by simp [commandBound]; omega) hframe⟩

/-! ### Commands that read a register and write it back (R85) -/

theorem regName_config : regName 0x00#5 = .one 0 := regName_one rfl

theorem regName_rfSetup : regName 0x06#5 = .one 6 := regName_one rfl

/-- A 1-byte register that holds `c` is read, and written back as `w = (c & keep) | set` (R85). -/
theorem opsRun_modifyReg {s : State} (h : s.Still) {a : RegAddr} {i : Fin 7} (ha : regName a = .one i) {keep set c w : Byte}
    (hc : s.radio.reg1[i] = c) (hw : c &&& keep ||| set = w) :
    opsRun (readRegOps a .tmp ++ writeRegOps a [.modify keep set]) s
      = .ok (((s.afterFrame (rcmd a) (received [c]) (s.radio.closed 1 [])).withTmp c).afterFrame (wcmd a)
          (sent (s.draws + 6) [w])
          (Radio.closed { s.radio with reg1 := s.radio.reg1.set i (radioStore s.cfg a w) } 1 [])) := by
  subst hc hw
  have hread := opsRun_readReg h a (b := s.radio.reg1[i]) (by simp [Radio.readAt, ha])
  refine opsRun_then hread ?_
  rw [opsRun_writeReg (h.afterRead (rcmd a) _ _ 1 []) (src := .modify keep set) (by simp [ha]) rfl, Radio.writeAt_one _ ha]
  rfl

/-- Bits 7:3 of the one byte and bits 2:0 of the other, put together (R174). -/
theorem extractLsb'_high_or_low (r l : Byte) :
    (r &&& 0xF8#8 ||| (l &&& 0x07#8)).extractLsb' 3 5 = r.extractLsb' 3 5
      ∧ (r &&& 0xF8#8 ||| (l &&& 0x07#8)).extractLsb' 0 3 = l.extractLsb' 0 3 := by
  constructor <;>
  · apply BitVec.eq_of_getElem_eq
    intro i hi
    interval_cases i <;> simp

/-- Settles O26: one read frame and one write frame of RF_SETUP, the byte written being the two fields put together. -/
theorem setPaLevelResult : Obligations.SetPaLevelResult := by
  rintro s level r w h rfl rfl
  refine ⟨?_, extractLsb'_high_or_low _ _⟩
  have hframes := opsRun_modifyReg (.ofReady h (commandWord (.setPaLevel level)) []) regName_rfSetup
    (keep := 0xF8#8) (set := level &&& 0x07#8) rfl rfl
  exact hostCommand_ready h (by simp) (by simp [commandBound]; omega) hframes

/-- START_LISTENING (R213): CONFIG is read and written back with bit 0 set, then CE rises. -/
theorem exec_startListening {s : State} (h : s.Ready) {c : Byte} (hc : c = s.radio.reg1[0]) :
    exec .startListening s
      = .next
          { (((s.afterFrame 0x00#8 (received [c]) (s.radio.closed 1 [])).afterFrame 0x20#8 (sent (s.draws + 6) [c ||| 0x01#8])
              (Radio.closed { s.radio with reg1 := s.radio.reg1.set 0 (radioStore s.cfg 0x00#5 (c ||| 0x01#8)) } 1 [])).afterCE
                true).finished (commandWord .startListening) .ok false with
            tmp := c } := by
  have hstill : (accept (commandWord .startListening) [] s).Still := .ofReady h _ _
  have hframes := opsRun_modifyReg hstill regName_config (keep := 0xFF#8) (set := 0x01#8) hc.symm
    (congrArg (· ||| 0x01#8) BitVec.and_allOnes)
  have hce := opsRun_then hframes (opsRun_driveCE (by exact hstill.settle) (by exact hstill.known) true [])
  have hrun := hostCommand_ready (e := .flag false) h (by simp [MicroOp.isEvent]) (by simp [commandBound, opCost]; omega) hce
  rwa [← procStartListening_eq] at hrun

/-- STOP_LISTENING (R214, R215): CE falls, then CONFIG is read and written back with bit 0 cleared. -/
theorem exec_stopListening {s : State} (h : s.Ready) {c : Byte} (hc : c = s.radio.reg1[0]) :
    exec .stopListening s
      = .next
          { (((s.afterCE false).afterFrame 0x00#8 (received [c]) ((s.radio.onCE false).closed 1 [])).afterFrame 0x20#8
              (sent (s.draws + 7) [c &&& 0xFE#8])
              (Radio.closed
                { s.radio.onCE false with
                  reg1 := s.radio.reg1.set 0 (radioStore s.cfg 0x00#5 (c &&& 0xFE#8)) } 1 [])).finished
                (commandWord .stopListening) .ok false with
            tmp := c } := by
  have hstill : (accept (commandWord .stopListening) [] s).Still := .ofReady h _ _
  have hframes := opsRun_modifyReg (hstill.afterCE false) regName_config (keep := 0xFE#8) (set := 0x00#8) hc.symm BitVec.or_zero
  have hce := (opsRun_driveCE hstill.settle hstill.known false _).trans hframes
  exact hostCommand_ready (e := .flag false) h (by simp [MicroOp.isEvent]) (by simp [commandBound, opCost]; omega) hce

/-- Under a RADIO_STORE that keeps PRIM_RX, START_LISTENING leaves a Ready machine whose radio is Listening (R213, R217). -/
theorem startListening_listens {s : State} (h : s.Ready)
    (hstore : ∀ v : Byte, (radioStore s.cfg 0x00#5 v).getLsbD 0 = v.getLsbD 0) :
    ∃ t, exec .startListening s = .next t ∧ t.Ready ∧ t.cfg = s.cfg ∧ t.radio.listening = true ∧ t.ce = true := by
  have hset : (radioStore s.cfg 0x00#5 (s.radio.reg1[0] ||| 0x01#8)).getLsbD 0 = true := by simp [hstore]
  have hexec := exec_startListening h rfl
  obtain ⟨-, hsettle, -, hk, he⟩ := h
  refine ⟨_, hexec, ⟨rfl, hsettle, rfl, hk, he⟩, rfl, ?_, rfl⟩
  simpa [Radio.listening, Radio.onCE, Radio.closed, State.finished, State.afterCE, State.afterFrame] using hset

/-- Under a RADIO_STORE that keeps PRIM_RX, STOP_LISTENING leaves it 0 and CE low (R214, R217). -/
theorem stopListening_stops {s : State} (h : s.Ready)
    (hstore : ∀ v : Byte, (radioStore s.cfg 0x00#5 v).getLsbD 0 = v.getLsbD 0) :
    ∃ t, exec .stopListening s = .next t ∧ t.radio.reg1[0].getLsbD 0 = false ∧ t.ce = false ∧ t.radio.listening = false := by
  have hclear : (radioStore s.cfg 0x00#5 (s.radio.reg1[0] &&& 0xFE#8)).getLsbD 0 = false := by
    rw [hstore, BitVec.getLsbD_and]
    simp
  refine ⟨_, exec_stopListening h rfl, ?_, rfl, rfl⟩
  simpa [Radio.closed, State.finished, State.afterFrame] using hclear

/-- Settles O31: the one command sets PRIM_RX and raises CE, the other lowers CE and clears PRIM_RX. -/
theorem startThenStopListening : Obligations.StartThenStopListening := by
  intro s h hstore
  obtain ⟨t, ht, hready, hcfg, hlistens, hce⟩ := startListening_listens h hstore
  obtain ⟨u, hu, hprim, hceu, hstops⟩ := stopListening_stops hready (by rwa [hcfg])
  exact ⟨t, u, ht, hu, hlistens, hce, hprim, hceu, hstops⟩

/-! ### Unwritten latch bytes (R39, R130, R290 a) -/

/-- A command whose event primitives come to a fault stops with it. -/
theorem hostCommand_fault {s : State} {w : Word} {ops k : List MicroOp} {f : Fault} (hi : s.phase = .idle) (he : s.env = [])
    (h0 : s.settleCnt = 0) (hops : ops.all MicroOp.isEvent = true) (hc : opsCost s.cfg ops ≤ commandBound s.cfg)
    (hr : opsRun ops (accept w [] s) = .error f) : hostCommand w (ops ++ k) s = .fault f := by
  obtain ⟨n, hn⟩ := Nat.exists_eq_add_of_le hc
  have hrun := runUntil_ops ops k n (s := accept w [] s) hops rfl he h0
  rw [hr] at hrun
  have hfuel : (accept w (ops ++ k) s).env.length + commandBound (accept w (ops ++ k) s).cfg = opsCost s.cfg ops + n := by
    simp [he, hn]
  rw [hostCommand, if_pos hi, runCommand, hfuel]
  exact hrun

theorem exists_bytes {srcs : List ByteSource} {s : State} (h : ∀ src ∈ srcs, ∃ b, sourceByte src s = .ok b) :
    ∃ bs : List Byte, srcs.map (fun src => sourceByte src s) = bs.map .ok := by
  induction srcs with
  | nil => exact ⟨[], rfl⟩
  | cons src srcs ih =>
    obtain ⟨⟨b, hb⟩, h⟩ := List.forall_mem_cons.1 h
    obtain ⟨bs, hbs⟩ := ih h
    exact ⟨b :: bs, by simp [hb, hbs]⟩

/-- A write frame faults at its first source that has no byte (R130). -/
theorem opsRun_frame_fault {s : State} (h : s.Still) {c : Byte} {i : Instr} (hc : decodeSpi c = .ok i)
    {srcs rest : List ByteSource} {src : ByteSource} {f : Fault} (hsrcs : ∀ src ∈ srcs, ∃ b, sourceByte src s = .ok b)
    (hf : sourceByte src s = .error f) : opsRun (frameOps c (srcs ++ src :: rest) []) s = .error f := by
  have hopened : ∀ x, sourceByte x (s.opened c (frameCmdOf i)) = sourceByte x s := fun x => by cases x <;> rfl
  obtain ⟨bs, hbs⟩ := exists_bytes (s := s.opened c (frameCmdOf i)) (fun x hx => by rw [hopened]; exact hsrcs x hx)
  rw [frameOps, opsRun_open h hc rfl]
  simpa using opsRun_outs_fault hbs ((hopened src).trans hf) [.driveCS true]

theorem range_split {n len : Nat} (h : n < len) : ∃ rest, List.range len = List.range n ++ n :: rest := by
  obtain ⟨m, rfl⟩ := Nat.exists_eq_add_of_lt h
  exact ⟨_, by rw [Nat.add_assoc, List.range_add, List.range_succ_eq_map]; rfl⟩

theorem sourceByte_addrl_written {s : State} {i : Fin 5} {b : Byte} (h : s.addrl[i] = some b) :
    sourceByte (.addrl i) s = .ok b := by
  have h' : s.addrl[i.val] = some b := h
  simp [sourceByte, h']

theorem sourceByte_addrl_unwritten {s : State} {i : Fin 5} (h : s.addrl[i] = none) :
    sourceByte (.addrl i) s = .error (.unwrittenLatch .addrl i) := by
  have h' : s.addrl[i.val] = none := h
  simp [sourceByte, h']

/-- A frame that sends ADDRL faults at its first unwritten byte (R39). -/
theorem opsRun_addrl_fault {s : State} (h : s.Still) (a : RegAddr) {i : Fin 5} (hi : s.addrl[i] = none)
    (hbefore : ∀ k : Fin 5, k < i → s.addrl[k] ≠ none) :
    opsRun (writeRegOps a addrlBytes) s = .error (.unwrittenLatch .addrl i) := by
  obtain ⟨rest, hrest⟩ := range_split i.isLt
  have hbytes : addrlBytes = (List.range i).map .addrl ++ .addrl i :: rest.map .addrl := by
    rw [← List.map_cons, ← List.map_append, ← hrest]
    rfl
  rw [writeRegOps, hbytes]
  refine opsRun_frame_fault h (decodeSpi_wcmd a) (fun src hsrc => ?_) (sourceByte_addrl_unwritten hi)
  obtain ⟨k, hk, rfl⟩ := List.mem_map.1 hsrc
  have hki := List.mem_range.1 hk
  obtain ⟨b, hb⟩ := Option.ne_none_iff_exists'.1 (hbefore ⟨k, by omega⟩ hki)
  exact ⟨b, sourceByte_addrl_written (i := ⟨k, by omega⟩) hb⟩

/-- A payload frame faults at the first unwritten byte of TXB below its length (R39). -/
theorem opsRun_txb_fault {s : State} (h : s.Still) {bs : List Byte} {l : List (Option Byte)} {len : Nat} (hlen : bs.length < len)
    (htxb : s.txb = bs.map some ++ none :: l) :
    opsRun (frameOps 0xA0#8 ((List.range len).map .txb) []) s = .error (.unwrittenLatch .txb bs.length) := by
  obtain ⟨rest, hrest⟩ := range_split hlen
  rw [hrest, List.map_append, List.map_cons]
  refine opsRun_frame_fault h decodeSpi_txPayload (fun src hsrc => ?_) (by simp [sourceByte, htxb])
  obtain ⟨k, hk, rfl⟩ := List.mem_map.1 hsrc
  have hk := List.mem_range.1 hk
  exact ⟨bs[k], by simp [sourceByte, htxb, List.getElem?_append_left, hk]⟩

/-- Settles O38: each of the three commands begins with the frame that sends the latch. -/
theorem unwrittenLatchByteFaults : Obligations.UnwrittenLatchByteFaults := by
  refine ⟨fun s i h hi hbefore => ?_, fun s len bs l h hlen hbs htxb => ?_⟩
  · have hfault : ∀ (w : Word) (a : RegAddr),
        hostCommand w (writeRegOps a addrlBytes ++ [.finish (.flag false)]) s = .fault (.unwrittenLatch .addrl i) := by
      intro w a
      have hfault := opsRun_addrl_fault (.ofReady h w []) a hi hbefore
      obtain ⟨hidle, h0, -, -, he⟩ := h
      exact hostCommand_fault hidle he h0 (isEvent_writeRegOps _ _) (by simp [commandBound, addrlBytes]; omega) hfault
    refine ⟨hfault _ _, fun p hp => ?_⟩
    have htarget : pipeTarget p = some (BitVec.ofNat 5 (0x0A + p.toNat)) := if_pos (BitVec.le_def.1 hp)
    have hproc : procOpenReadingPipe p
        = writeRegOps (BitVec.ofNat 5 (0x0A + p.toNat)) addrlBytes ++ [.finish (.flag false)] := by
      rw [procOpenReadingPipe, htarget]
    exact (congrArg (fun ops => hostCommand _ ops s) hproc).trans (hfault _ _)
  · obtain ⟨hidle, h0, hin, hk, he⟩ := h
    have hready : State.Ready { s with pollCnt := 0 } := ⟨hidle, h0, hin, hk, he⟩
    have hexec : exec (.writePayload len) s
        = hostCommand (commandWord (.writePayload len)) (procWritePayload s.cfg.payloadMax len) { s with pollCnt := 0 } := by
      show hostCommand _ _ (if s.phase = .idle then _ else _) = _
      rw [if_pos hidle]
    rw [hexec, procWritePayload_accepted hlen, writePayloadEvents, List.append_assoc]
    exact hostCommand_fault (s := { s with pollCnt := 0 }) hidle he h0 (isEvent_frameOps _ _ _)
      (lt_commandBound_long (by simp; omega)).le (opsRun_txb_fault (.ofReady hready _ []) hbs htxb)

/-! ### READ_PAYLOAD (R261-R263) -/

/-- The bytes a payload read gets, position by position (R150). -/
theorem payloadBytes_eq_map (head : List Byte) (d k n : Nat) :
    payloadBytes head d k n = (List.range n).map (fun q => (head[k + q]?).getD (Config.freeByte (d + q))) := by
  induction n generalizing d k with
  | zero => rfl
  | succ n ih =>
    rw [payloadBytes, ih, List.range_succ_eq_map]
    simp [Nat.add_assoc, Nat.add_comm 1]

/-- The write of RX_DR's mask to STATUS clears RX_DR alone (R154, R263). -/
theorem Radio.writeAt_rxDrMask (p : Params) (r : Radio) : r.writeAt p 0x07#5 0 (rxDrMask p) = { r with fRxDr := false } := by
  have hmask : rxDrMask p ≠ 0#8 := by simpa using rxDrMask_and_rxDrMask p
  simp [Radio.writeAt_status, rxDrMask_and_txDsMask, rxDrMask_and_maxRtMask, hmask]

/-- READ_PAYLOAD's first frame, the bytes read being `bs` (R261, R150). -/
theorem opsRun_readPayloadFrame {s : State} (h : s.Still) {n : Nat} {bs : List Byte} (hrxb : n ≤ s.rxb.length)
    (hbs : bs = (List.range n).map (fun q => ((s.radio.rxq.headD [])[q]?).getD (Config.freeByte (s.draws + 2 + q)))) :
    opsRun (frameOps 0x61#8 [] ((List.range n).map .rxb)) s
      = .ok
          { s.afterFrame 0x61#8 (received bs)
              { s.radio.closed n [] with rxq := if 1 ≤ n then s.radio.rxq.tail else s.radio.rxq } with
            rxb := bs.map some ++ s.rxb.drop n } := by
  have hbytes : payloadBytes (s.radio.rxq.headD []) (s.draws + 2) 0 n = bs := by
    rw [payloadBytes_eq_map, hbs]
    simp
  have hcount : bs.length = n := by rw [← hbytes, payloadBytes_length]
  have hlatch : storeLatch bs 0 s.rxb = bs.map some ++ s.rxb.drop n := by
    rw [storeLatch_eq _ _ _ (by omega)]
    simp [hcount]
  rw [opsRun_rxPayload h, hbytes, hlatch]

/-- The frame that clears RX_DR (R263). -/
theorem opsRun_clearRxDr {s : State} (h : s.Still) {m : Byte} (hm : m = rxDrMask s.cfg) :
    opsRun (writeRegOps 0x07#5 [.const m]) s
      = .ok (s.afterFrame 0x27#8 (sent (s.draws + 2) [m]) (Radio.closed { s.radio with fRxDr := false } 1 [])) := by
  subst hm
  rw [opsRun_writeReg h (by simp) rfl, Radio.writeAt_rxDrMask]
  rfl

/-- Settles O40: the payload frame into RXB, then the frame that clears RX_DR. -/
theorem readPayloadResult : Obligations.ReadPayloadResult := by
  rintro s s1 len bs h hlen hrxb hbs rfl
  have hstill : (accept (commandWord (.readPayload len)) [] s).Still := .ofReady h _ _
  have hframes := opsRun_then (opsRun_readPayloadFrame hstill (hlen.trans_eq hrxb.symm) hbs)
    (opsRun_clearRxDr (m := rxDrMask s.cfg) (by exact ⟨hstill.settle, rfl, hstill.known⟩) (by rfl))
  have hproc : procReadPayload s.cfg len
      = frameOps 0x61#8 [] ((List.range len.toNat).map .rxb) ++ writeRegOps 0x07#5 [.const (rxDrMask s.cfg)]
        ++ [.finish (.flag false)] := if_neg (by omega)
  have hrun := hostCommand_ready (e := .flag false) h (by simp) (lt_commandBound_long (by simp; omega)) hframes
  exact (congrArg (fun ops => hostCommand _ ops s) hproc).trans hrun

end Sys2Proof.Machine

/-! Register access as one command, and the register frames of any length: the statements of the family 20_memory. -/

namespace Sys2Proof.Machine

/-! ### Positions of a 5-byte register (R73, R148) -/

/-- Bytes stored from position `k` on: those before `k` stay, and so do those no byte is sent for. -/
theorem storeBytes_getElem (bs : List Byte) (k : Nat) (v : Vector Byte 5) {i : Nat} (hi : i < 5) :
    (storeBytes bs k v)[i] = if i < k then v[i] else (bs[i - k]?).getD v[i] := by
  induction bs generalizing k v with
  | nil => simp [storeBytes]
  | cons b bs ih =>
    rw [storeBytes, ih, Vector.getElem_setIfInBounds]
    obtain hlt | rfl | hgt := Nat.lt_trichotomy i k
    · simp [hlt, Nat.lt_succ_of_lt hlt, hlt.ne']
    · simp
    · have hsucc : i - k = (i - (k + 1)) + 1 := by omega
      simp [hsucc, hgt.ne, show ¬ i < k + 1 by omega, show ¬ i < k by omega]

/-- Bytes stored from position 0 on, as one vector. -/
theorem storeBytes_zero (bs : List Byte) (v : Vector Byte 5) :
    storeBytes bs 0 v = Vector.ofFn (fun q : Fin 5 => (bs[q.val]?).getD v[q]) := by
  ext i hi
  simp [storeBytes_getElem]

/-- The radio's decoder takes the bytes of a write to a 5-byte register at the positions from `k` on. -/
theorem Radio.foldl_onXfer_five (p : Params) {a : RegAddr} {j : Fin 7} (ha : regName a = .five j) (bs : List Byte) (k : Nat)
    (l : List Byte) (r : Radio) :
    bs.foldl (fun q m => q.onXfer p m) (r.within (.wReg a) k l)
      = Radio.within { r with reg5 := r.reg5.set j (storeBytes bs k r.reg5[j]) } (.wReg a) (k + bs.length) l := by
  induction bs generalizing k r with
  | nil => simp [storeBytes]
  | cons b bs ih =>
    rw [List.foldl_cons, Radio.onXfer_within_wReg, ih]
    simp [Radio.writeAt, ha, storeBytes, Nat.add_assoc, Nat.add_comm 1]

/-- Settles O15: each byte is stored at its own position, and the radio's count is the next one. -/
theorem writeFrameStoresByPosition : Obligations.WriteFrameStoresByPosition := by
  intro p r a j bs ha hin hcmd hidx
  have hr : r = r.within (.wReg a) 0 r.facc := by simp [Radio.within, ← hin, ← hcmd, ← hidx]
  have hfold := Radio.foldl_onXfer_five p (regName_five ha) bs 0 r.facc r
  rw [← hr, storeBytes_zero, Nat.zero_add] at hfold
  rw [hfold]
  simp [Radio.within, hin, hcmd]

/-! ### Registers read at a position (R147) -/

/-- Settles O16: a position past a register's size, or an address that names none, has no byte. -/
theorem readAnswersByPosition : Obligations.ReadAnswersByPosition := by
  intro p r a k
  refine ⟨fun i hi => ?_, ?_, fun j hj => ?_, fun hu => ?_⟩
  · simp [Radio.readAt, regName_one hi]
  · rintro rfl
    simp [Radio.readAt]
  · simp only [Radio.readAt, regName_five hj]
    exact getElem?_def _ _
  · simp [Radio.readAt, regName_unmapped hu]

/-! ### Commands of one register frame -/

/-- Settles O11: the radio's reaction to the one data byte, by kind of register. -/
theorem writeRegResult : Obligations.WriteRegResult := by
  intro s a v h
  refine ⟨fun i hi => ?_, ?_, fun j hj => ?_⟩
  · have hname := regName_one hi
    rw [exec_writeReg_mapped h (by simp [hname]), Radio.writeAt_one _ hname]
    rfl
  · rintro rfl
    rw [exec_writeReg_mapped h (by simp), Radio.writeAt_status]
    rfl
  · have hname := regName_five hj
    rw [exec_writeReg_mapped h (by simp [hname]), Radio.writeAt_five _ hname]
    rfl

/-- Settles O13: the byte is the one the radio answers at position 0. -/
theorem readRegResult : Obligations.ReadRegResult := fun s a _ h hb =>
  exec_readReg h a (Radio.readAt_zero s.cfg s.radio a _ _ hb)

/-- Settles O39: the one STATUS read goes to `tmp`, whose RX_DR bit is the radio's flag. -/
theorem availableResult : Obligations.AvailableResult := by
  intro s h
  have hread := opsRun_readReg (.ofReady h (commandWord .available) []) 0x07#5 (b := statusValue s.cfg s.radio)
    (by simp [Radio.readAt])
  have hrun := hostCommand_ready (e := .ready) h (isEvent_readRegOps _ _) (by simp [commandBound]; omega) hread
  rw [← hasFlag_rxDr s.cfg s.radio]
  exact hrun

/-! ### The pipe commands (R191, R192) -/

/-- A command that sends ADDRL to a 5-byte register fills it with the latch's bytes, in index order. -/
theorem hostCommand_sendAddrl {s : State} (h : s.Ready) (w : Word) {a : RegAddr} {j : Fin 7} (ha : regName a = .five j)
    {b0 b1 b2 b3 b4 : Byte} (hl : s.addrl = #v[some b0, some b1, some b2, some b3, some b4]) :
    hostCommand w (writeRegOps a addrlBytes ++ [.finish (.flag false)]) s
      = .next ((s.afterFrame (wcmd a) (sent (s.draws + 2) [b0, b1, b2, b3, b4])
          (Radio.closed { s.radio with reg5 := s.radio.reg5.set j #v[b0, b1, b2, b3, b4] } 5 [])).finished w .ok false) := by
  have hbytes : addrlBytes.map (fun src => sourceByte src (accept w [] s)) = [b0, b1, b2, b3, b4].map .ok := by
    simp [addrlBytes, sourceByte, hl]
  have hframe := opsRun_writeAddr (.ofReady h w []) ha hbytes
  exact hostCommand_ready h (isEvent_writeRegOps _ _) (by simp [commandBound, addrlBytes]; omega) hframe

/-- Settles O27: TX_ADDR is the 5-byte register at 0x10. -/
theorem openWritingPipeResult : Obligations.OpenWritingPipeResult := fun _ _ _ _ _ _ h hl =>
  hostCommand_sendAddrl h (commandWord .openWritingPipe) (regName_five (j := 6) rfl) hl

/-- The register of a valid pipe, and the command byte that writes it (R121, R190). -/
theorem pipeTarget_valid (p : Fin 6) :
    ∃ a, pipeTarget (BitVec.ofNat 8 p.val) = some a ∧ regName a = .five ⟨p.val, by omega⟩
      ∧ wcmd a = BitVec.ofNat 8 (0x2A + p.val) := by
  refine ⟨BitVec.ofNat 5 (0x0A + p.val), ?_, regName_five ?_, ?_⟩ <;> revert p <;> decide

/-- Settles O28: the pipe's register is a 5-byte register, and it takes the latch. -/
theorem openReadingPipeResult : Obligations.OpenReadingPipeResult := by
  intro s p b0 b1 b2 b3 b4 h hl
  obtain ⟨a, htarget, hname, hc⟩ := pipeTarget_valid p
  have hproc : procOpenReadingPipe (BitVec.ofNat 8 p.val) = writeRegOps a addrlBytes ++ [.finish (.flag false)] := by
    rw [procOpenReadingPipe, htarget]
  have hrun := hostCommand_sendAddrl h (commandWord (.openReadingPipe (BitVec.ofNat 8 p.val))) hname hl
  rw [← hproc, hc] at hrun
  exact hrun
/-! ### The run of a frame from its command byte -/

theorem State.AtCommand.known {s : State} {c : Byte} {rest : List MicroOp} (h : s.AtCommand c rest) :
    s.radio.radioUnknown = false := by
  obtain ⟨-, -, -, -, -, -, -, hk, -⟩ := h
  exact hk

/-- `s` after the exchange of its frame's command byte `c`, which the radio decodes to `fc` (R132, R146). -/
def State.commanded (s : State) (c : Byte) (fc : FrameCmd) : State :=
  { s.exchanged c (s.radio.within fc 0 []) with lstat := statusValue s.cfg s.radio }

/-- `s` after the data exchanges `xs`, which left the radio as `r`. -/
def State.afterExchanges (s : State) (xs : List (Byte × Byte)) (r : Radio) : State :=
  { s with
    radio := r
    trace := (xs.map (fun x => BusEvent.xfer x.1 x.2)).reverse ++ s.trace
    draws := s.draws + xs.length }

/-- `s` with another `tmp`, count of polls and RXB: all that reads leave in the engine besides their exchanges (R26, R133). -/
def State.withReads (s : State) (tmp : Byte) (polls : Nat) (rxb : List (Option Byte)) : State :=
  { s with tmp := tmp, pollCnt := polls, rxb := rxb }

/-- A data phase whose exchanges are `xs`, then the frame's end: what the radio makes of the release of CS_N is its last word. -/
theorem spiFrame_exchanges {s : State} {c : Byte} {i : Instr} {fc : FrameCmd} {ops k : List MicroOp}
    (h : s.AtCommand c (ops ++ .driveCS true :: k)) (hc : decodeSpi c = .ok i) (hfc : frameCmdOf i = fc)
    (hops : ops.all MicroOp.isData = true) {xs : List (Byte × Byte)} {r : Radio} {tmp : Byte} {n : Nat} {l : List (Option Byte)}
    (hrun : opsRun ops (s.commanded c fc) = .ok (((s.commanded c fc).afterExchanges xs r).withReads tmp n l)) :
    spiFrame c s
      = .next ((s.frameFinished c xs (((s.commanded c fc).afterExchanges xs r).react (Radio.onCS true)).radio k).withReads
          tmp n l) := by
  have hcmd : commandByte c s = s.commanded c fc := commandByte_known h hc hfc
  have hm : s.misoByte = statusValue s.cfg s.radio := congrArg State.lstat hcmd
  have hframe := spiFrame_quiet (c := c) h hops
  rw [hcmd, hrun] at hframe
  obtain ⟨-, h0, -⟩ := h
  refine hframe.trans (congrArg Host.Outcome.next ?_)
  rw [settled_driveCS (by exact h0)]
  apply State.ext <;>
    simp [State.released, State.afterExchanges, State.withReads, State.commanded, State.exchanged, State.frameFinished,
      State.withSeq, State.react, hm]
  omega

/-- The same where the radio stays known: it ends as the release of CS_N leaves it (R151). -/
theorem spiFrame_known {s : State} {c : Byte} {i : Instr} {fc : FrameCmd} {ops k : List MicroOp}
    (h : s.AtCommand c (ops ++ .driveCS true :: k)) (hc : decodeSpi c = .ok i) (hfc : frameCmdOf i = fc)
    (hops : ops.all MicroOp.isData = true) {xs : List (Byte × Byte)} {r r' : Radio} {tmp : Byte} {n : Nat}
    {l : List (Option Byte)}
    (hrun : opsRun ops (s.commanded c fc) = .ok (((s.commanded c fc).afterExchanges xs r).withReads tmp n l))
    (hk : r.radioUnknown = false) (hend : r.onCS true = r') (hk' : r'.radioUnknown = false) :
    spiFrame c s = .next ((s.frameFinished c xs r' k).withReads tmp n l) := by
  subst hend
  rw [spiFrame_exchanges h hc hfc hops hrun, react_radio_known (by exact hk) (by exact hk')]
  rfl

/-! ### W_REGISTER with any number of data bytes (R102, R148) -/

/-- The bytes of a write to a register of one byte: the first is taken, the others are ignored (R148). -/
theorem sendAll_oneByte {a : RegAddr} (ha : ∀ j, regName a ≠ .five j) (hu : regName a ≠ .unmapped) (b : Byte) (bs : List Byte)
    {s : State} {r : Radio} (hk : r.radioUnknown = false) (hr : s.radio = r.within (.wReg a) 0 []) :
    sendAll (b :: bs) s
      = s.afterExchanges (sent s.draws (b :: bs)) ((r.writeAt s.cfg a 0 b).within (.wReg a) (b :: bs).length []) := by
  have hk' : (r.writeAt s.cfg a 0 b).radioUnknown = false := by rw [Radio.writeAt_known _ _ _ hu, hk]
  have hx : xfer b s = s.exchanged b ((r.writeAt s.cfg a 0 b).within (.wReg a) 1 []) :=
    xfer_known (by rw [hr]; exact hk) (by rw [hr]; exact Radio.onXfer_within_wReg s.cfg b r a 0 []) hk'
  have hm : s.misoByte = Config.freeByte s.draws := by simp [State.misoByte, hr, Radio.miso]
  rw [sendAll_cons, hx, sendAll_past ha hu bs (k := 1) (by decide) hk' rfl]
  apply State.ext <;> simp [State.afterExchanges, State.exchanged, sent_cons, hm, Nat.add_assoc, Nat.add_comm 1]

/-- A byte answered freely, and the data exchanges after it. -/
theorem afterExchanges_sent_cons {s : State} (hm : s.misoByte = Config.freeByte s.draws) (b : Byte) (bs : List Byte) (r : Radio) :
    (xfer b s).afterExchanges (sent (s.draws + 1) bs) r = s.afterExchanges (sent s.draws (b :: bs)) r := by
  apply State.ext <;> simp [State.afterExchanges, sent_cons, hm, Nat.add_assoc, Nat.add_comm 1]

/-- Bytes sent after one that left the radio unknown: it stays unknown, and every byte it answers is free (R51, R291). -/
theorem sendAll_unknown (bs : List Byte) {s : State} (h : s.radio.radioUnknown = true) :
    ∃ r : Radio, r.radioUnknown = true ∧ sendAll bs s = s.afterExchanges (sent s.draws bs) r := by
  induction bs generalizing s with
  | nil => exact ⟨s.radio, h, rfl⟩
  | cons b bs ih =>
    have hm : s.misoByte = Config.freeByte s.draws := by simp [State.misoByte, Radio.miso, h]
    obtain ⟨r, hr, hsend⟩ := ih (s := xfer b s) (react_keeps_unknown _ h)
    exact ⟨r, hr, hsend.trans (afterExchanges_sent_cons hm b bs r)⟩

/-- The first byte of a write to an unmapped address makes the radio unknown (R76). -/
theorem sendAll_unmapped {a : RegAddr} (ha : regName a = .unmapped) (b : Byte) (bs : List Byte) {s : State} {r : Radio}
    (hr : s.radio = r.within (.wReg a) 0 []) :
    ∃ r : Radio, r.radioUnknown = true ∧ sendAll (b :: bs) s = s.afterExchanges (sent s.draws (b :: bs)) r := by
  have hmark : (Radio.onXfer s.cfg b s.radio).radioUnknown = true := by simp [hr, Radio.writeAt, ha]
  have hx : (xfer b s).radio.radioUnknown = true := by simp [State.react, hmark]
  have hm : s.misoByte = Config.freeByte s.draws := by simp [State.misoByte, hr, Radio.miso]
  obtain ⟨r, hk, hsend⟩ := sendAll_unknown bs hx
  exact ⟨r, hk, hsend.trans (afterExchanges_sent_cons hm b bs r)⟩

theorem opsRun_outs_commanded {s : State} {c : Byte} {fc : FrameCmd} {srcs : List ByteSource} {bs : List Byte}
    (hbs : srcs.map (fun src => sourceByte src s) = bs.map .ok) :
    opsRun (srcs.map .out) (s.commanded c fc) = .ok (sendAll bs (s.commanded c fc)) :=
  opsRun_outs (by rw [← hbs]; exact List.map_congr_left (fun src _ => by cases src <;> rfl))

theorem isData_outs (srcs : List ByteSource) : (srcs.map MicroOp.out).all MicroOp.isData = true := by simp [MicroOp.isData]

theorem isData_reads (dsts : List ByteDest) : (dsts.map MicroOp.read).all MicroOp.isData = true := by simp [MicroOp.isData]

/-- W_REGISTER of a radio that stays known: at the frame's end it holds what the data phase left in it. -/
theorem exec_wRegister_known {s : State} {a : RegAddr} {srcs : List ByteSource} {bs : List Byte} {k : List MicroOp}
    (h : s.AtCommand (wcmd a) (srcs.map .out ++ .driveCS true :: k))
    (hbs : srcs.map (fun src => sourceByte src s) = bs.map .ok) {r : Radio} (hk : r.radioUnknown = false)
    (hsend : sendAll bs (s.commanded (wcmd a) (.wReg a))
      = (s.commanded (wcmd a) (.wReg a)).afterExchanges (sent (s.draws + 1) bs) (r.within (.wReg a) bs.length [])) :
    exec (.wRegister a) s = .next (s.frameFinished (wcmd a) (sent (s.draws + 1) bs) (r.closed bs.length []) k) :=
  spiFrame_known h (decodeSpi_wcmd a) rfl (isData_outs srcs) ((opsRun_outs_commanded hbs).trans (congrArg _ hsend)) hk
    (Radio.onCS_within_wReg r a _ []) hk

/-- W_REGISTER to a register of one byte takes the first data byte (R148). -/
theorem exec_wRegister_oneByte {s : State} {a : RegAddr} {srcs : List ByteSource} {b : Byte} {bs : List Byte} {k : List MicroOp}
    (h : s.AtCommand (wcmd a) (srcs.map .out ++ .driveCS true :: k))
    (hbs : srcs.map (fun src => sourceByte src s) = (b :: bs).map .ok) (ha : ∀ j, regName a ≠ .five j)
    (hu : regName a ≠ .unmapped) :
    exec (.wRegister a) s
      = .next (s.frameFinished (wcmd a) (sent (s.draws + 1) (b :: bs))
          ((s.radio.writeAt s.cfg a 0 b).closed (b :: bs).length []) k) := by
  have hk := h.known
  have hk' : (s.radio.writeAt s.cfg a 0 b).radioUnknown = false := by rw [Radio.writeAt_known _ _ _ hu, hk]
  exact exec_wRegister_known h hbs hk' (sendAll_oneByte ha hu b bs hk rfl)

/-- W_REGISTER with no data byte leaves the registers (R148). -/
theorem exec_wRegister_empty {s : State} {a : RegAddr} {srcs : List ByteSource} {k : List MicroOp}
    (h : s.AtCommand (wcmd a) (srcs.map .out ++ .driveCS true :: k))
    (hbs : srcs.map (fun src => sourceByte src s) = ([] : List Byte).map .ok) :
    exec (.wRegister a) s = .next (s.frameFinished (wcmd a) [] (s.radio.closed 0 []) k) := by
  have hk := h.known
  exact exec_wRegister_known h hbs hk rfl

/-- W_REGISTER to a 5-byte register stores the k-th data byte at position k (R148). -/
theorem exec_wRegister_five {s : State} {a : RegAddr} {j : Fin 7} {srcs : List ByteSource} {bs : List Byte} {k : List MicroOp}
    (h : s.AtCommand (wcmd a) (srcs.map .out ++ .driveCS true :: k))
    (hbs : srcs.map (fun src => sourceByte src s) = bs.map .ok) (ha : regName a = .five j) :
    exec (.wRegister a) s
      = .next (s.frameFinished (wcmd a) (sent (s.draws + 1) bs)
          (Radio.closed { s.radio with reg5 := s.radio.reg5.set j (storeBytes bs 0 s.radio.reg5[j]) } bs.length []) k) := by
  have hk := h.known
  have hsend := sendAll_five ha bs 0 (s := s.commanded (wcmd a) (.wReg a)) hk rfl
  rw [Nat.zero_add] at hsend
  refine exec_wRegister_known (r := { s.radio with reg5 := _ }) h hbs hk (hsend.trans ?_)
  simp [State.afterExchanges, State.commanded, State.exchanged]

/-- W_REGISTER with a data byte to an unmapped address leaves the radio unknown (R76). -/
theorem exec_wRegister_unmapped {s : State} {a : RegAddr} {srcs : List ByteSource} {bs : List Byte} {k : List MicroOp}
    (h : s.AtCommand (wcmd a) (srcs.map .out ++ .driveCS true :: k))
    (hbs : srcs.map (fun src => sourceByte src s) = bs.map .ok) (ha : regName a = .unmapped) (hne : bs ≠ []) :
    ∃ r : Radio, r.radioUnknown = true
      ∧ exec (.wRegister a) s = .next (s.frameFinished (wcmd a) (sent (s.draws + 1) bs) r k) := by
  obtain ⟨b, bs, rfl⟩ := List.exists_cons_of_ne_nil hne
  obtain ⟨r, hr, hsend⟩ := sendAll_unmapped ha b bs (s := s.commanded (wcmd a) (.wReg a)) rfl
  exact ⟨_, react_keeps_unknown _ hr, spiFrame_exchanges h (decodeSpi_wcmd a) rfl (isData_outs srcs)
    ((opsRun_outs_commanded hbs).trans (congrArg _ hsend))⟩

/-- The write-1-to-clear keeps a flag whose mask bit is 0 in the byte (R154). -/
theorem w1c_eq (p : Params) (v : Byte) (r : Radio) :
    w1c p v r =
      { r with
        fTxDs := r.fTxDs && (v &&& txDsMask p == 0#8)
        fMaxRt := r.fMaxRt && (v &&& maxRtMask p == 0#8)
        fRxDr := r.fRxDr && (v &&& rxDrMask p == 0#8) } := by
  simp [w1c, hasFlag, bne]

theorem w1c_zero (p : Params) (r : Radio) : w1c p 0#8 r = r := by simp [w1c_eq]

/-- W_REGISTER to STATUS clears by the first data byte, with none no flag (R148, R154). -/
theorem exec_wRegister_status {s : State} {srcs : List ByteSource} {bs : List Byte} {k : List MicroOp}
    (h : s.AtCommand (wcmd 0x07#5) (srcs.map .out ++ .driveCS true :: k))
    (hbs : srcs.map (fun src => sourceByte src s) = bs.map .ok) :
    exec (.wRegister 0x07#5) s
      = .next (s.frameFinished (wcmd 0x07#5) (sent (s.draws + 1) bs)
          ((w1c s.cfg (bs.headD 0#8) s.radio).closed bs.length []) k) := by
  cases bs with
  | nil => rw [exec_wRegister_empty h hbs, List.headD_nil, w1c_zero]; rfl
  | cons b bs =>
    have hw : s.radio.writeAt s.cfg 0x07#5 0 b = w1c s.cfg b s.radio := by simp [Radio.writeAt]
    rw [exec_wRegister_oneByte h hbs (by simp) (by simp), hw, List.headD_cons]

/-- Settles O19: the data phase by kind of register, a frame without data bytes on its own. -/
theorem wRegisterResult : Obligations.WRegisterResult := by
  intro s a srcs bs k h hbs
  refine ⟨fun i hi => ?_, ?_, fun j hj => ?_, fun hu hne => exec_wRegister_unmapped h hbs (regName_unmapped hu) hne, ?_⟩
  · have hname := regName_one hi
    cases bs with
    | nil =>
      have hsame : s.radio.reg1.set i s.radio.reg1[i] = s.radio.reg1 := Vector.set_getElem_self _
      rw [exec_wRegister_empty h hbs, List.head?_nil, Option.map_none, Option.getD_none, hsame]
      rfl
    | cons b bs =>
      rw [exec_wRegister_oneByte h hbs (by simp [hname]) (by simp [hname]), Radio.writeAt_one _ hname]
      rfl
  · rintro rfl
    rw [exec_wRegister_status h hbs, w1c_eq]
    rfl
  · rw [← storeBytes_zero]
    exact exec_wRegister_five h hbs (regName_five hj)
  · rintro rfl
    exact exec_wRegister_empty h hbs

/-! ### R_REGISTER with any number of data bytes (R101, R147) -/

/-- The bytes an R_REGISTER data phase of `n` bytes reads from position `k` on, the first with draw number `d` (R147). -/
def registerBytes (p : Params) (r : Radio) (a : RegAddr) (d k n : Nat) : List Byte :=
  (List.range n).map (fun q => (r.readAt p a (k + q)).getD (Config.freeByte (d + q)))

theorem registerBytes_zero (p : Params) (r : Radio) (a : RegAddr) (d n : Nat) :
    registerBytes p r a d 0 n = (List.range n).map (fun q => (r.readAt p a q).getD (Config.freeByte (d + q))) := by
  simp only [registerBytes, Nat.zero_add]

theorem registerBytes_succ (p : Params) (r : Radio) (a : RegAddr) (d k n : Nat) :
    registerBytes p r a d k (n + 1)
      = (r.readAt p a k).getD (Config.freeByte d) :: registerBytes p r a (d + 1) (k + 1) n := by
  simp [registerBytes, List.range_succ_eq_map, Nat.add_assoc, Nat.add_comm 1]

/-- A data byte read is one exchange of READ_FILL, wherever the byte goes (R133). -/
theorem readDataByte_withReads (dst : ByteDest) (s : State) :
    ∃ tmp n l, readDataByte dst s = (xfer readFill s).withReads tmp n l := by
  cases dst with
  | tmp => exact ⟨_, _, _, rfl⟩
  | poll => exact ⟨_, _, _, rfl⟩
  | rxb i => exact ⟨_, _, _, rfl⟩

/-- The byte a known radio answers at position `k` of a read of register `a` (R147). -/
theorem misoByte_within_rReg {s : State} {r : Radio} {a : RegAddr} {k : Nat} (hk : r.radioUnknown = false)
    (hr : s.radio = r.within (.rReg a) k []) : s.misoByte = (r.readAt s.cfg a k).getD (Config.freeByte s.draws) := by
  simp [State.misoByte, hr, Radio.miso, hk]

/-- A known radio answers the reads of register `a` from position `k` on (R147). -/
theorem opsRun_reads_register (dsts : List ByteDest) (a : RegAddr) (k : Nat) {s : State} {r : Radio}
    (hk : r.radioUnknown = false) (hr : s.radio = r.within (.rReg a) k []) :
    ∃ tmp n l, opsRun (dsts.map .read) s
      = .ok ((s.afterExchanges (received (registerBytes s.cfg r a s.draws k dsts.length))
          (r.within (.rReg a) (k + dsts.length) [])).withReads tmp n l) := by
  induction dsts generalizing k s with
  | nil =>
    exact ⟨s.tmp, s.pollCnt, s.rxb, by simp [State.afterExchanges, State.withReads, registerBytes, received, ← hr]⟩
  | cons dst dsts ih =>
    have hx : xfer readFill s = s.exchanged readFill (r.within (.rReg a) (k + 1) []) :=
      xfer_known (by rw [hr]; exact hk) (by rw [hr]; exact Radio.onXfer_within_rReg s.cfg readFill r a k []) hk
    obtain ⟨tmp, n, l, hread⟩ := readDataByte_withReads dst s
    rw [hx] at hread
    obtain ⟨tmp', n', l', hrest⟩ := ih (k + 1) (s := (s.exchanged readFill (r.within (.rReg a) (k + 1) [])).withReads tmp n l) rfl
    refine ⟨tmp', n', l', ?_⟩
    simp only [List.map_cons, opsRun, opStep, hread, hrest]
    refine congrArg Except.ok ?_
    apply State.ext <;>
      simp [State.afterExchanges, State.withReads, State.exchanged, registerBytes_succ, received, readFill,
        misoByte_within_rReg hk hr, Nat.add_assoc, Nat.add_comm 1]

/-- Settles O20: the data phase reads the register by position, and its destinations are all it changes of the engine. -/
theorem rRegisterResult : Obligations.RRegisterResult := by
  intro s a dsts k h
  have hk := h.known
  obtain ⟨tmp, n, l, hreads⟩ := opsRun_reads_register dsts a 0 (s := s.commanded (rcmd a) (.rReg a)) hk rfl
  have hrun := spiFrame_known h (decodeSpi_rcmd a) rfl (isData_reads dsts) hreads hk (Radio.onCS_within_rReg s.radio a _ []) hk
  rw [registerBytes_zero, Nat.zero_add] at hrun
  refine ⟨_, hrun, rfl, ?_⟩
  rintro rfl
  have htmp : tmp = (s.commanded (rcmd a) (.rReg a)).misoByte := congrArg State.tmp (Except.ok.inj hreads).symm
  exact htmp.trans (misoByte_within_rReg hk rfl)

end Sys2Proof.Machine

/-! Decoding and encoding are inverse to each other, the reserved words, the address decoder, and the two payload commands of the
SPI port: the statements of the family 30_encoding. -/

namespace Sys2Proof

/-! ### The fields of a host word (R110) -/

theorem opOf_and (w m : Word) : opOf (w &&& m) = opOf w &&& opOf m := BitVec.extractLsb'_and

theorem aOf_and (w m : Word) : aOf (w &&& m) = aOf w &&& aOf m := BitVec.extractLsb'_and

theorem vOf_and (w m : Word) : vOf (w &&& m) = vOf w &&& vOf m := BitVec.extractLsb'_and

theorem hostWord_and_reservedMask (op : BitVec 4) (a : RegAddr) (v : Byte) : hostWord op a v &&& reservedMask = 0#32 := by
  have hv : v.setWidth 32 <<< 16 &&& reservedMask = 0#32 := by revert v; decide
  have ha : a.setWidth 32 <<< 8 &&& reservedMask = 0#32 := by revert a; decide
  have hop : op.setWidth 32 &&& reservedMask = 0#32 := by revert op; decide
  simp [hostWord_and, hv, ha, hop]

/-- A word with no reserved bit set is made of its three fields. -/
theorem hostWord_fields {w : Word} (h : w &&& reservedMask = 0#32) : hostWord (opOf w) (aOf w) (vOf w) = w := by
  apply BitVec.eq_of_getElem_eq
  intro i hi
  have hbit : (w[i] && reservedMask[i]) = false := by simp [← BitVec.getElem_and, h]
  simp only [hostWord, opOf, aOf, vOf]
  interval_cases i <;> simp_all [reservedMask]

theorem eq_hostWord_iff {w : Word} {op : BitVec 4} {a : RegAddr} {v : Byte} :
    w = hostWord op a v ↔ opOf w = op ∧ aOf w = a ∧ vOf w = v ∧ w &&& reservedMask = 0#32 := by
  constructor
  · rintro rfl
    exact ⟨opOf_hostWord op a v, aOf_hostWord op a v, vOf_hostWord op a v, hostWord_and_reservedMask op a v⟩
  · rintro ⟨rfl, rfl, rfl, h⟩
    exact (hostWord_fields h).symm

/-! ### The rows of the table of R112 -/

/-- A row's pattern is its op code alone, and its mask takes the op code, the reserved bits, and A and V each whole or not. -/
theorem hostRows_masks {r : HostRow} (h : r ∈ hostRows) :
    r.pattern = hostWord (opOf r.pattern) 0#5 0#8 ∧ opOf r.mask = BitVec.allOnes 4 ∧ r.mask &&& reservedMask = reservedMask
      ∧ (aOf r.mask = 0#5 ∨ aOf r.mask = BitVec.allOnes 5) ∧ (vOf r.mask = 0#8 ∨ vOf r.mask = BitVec.allOnes 8) := by
  revert r
  decide

/-- The rows have different op codes. -/
theorem hostRows_ext {r q : HostRow} (hr : r ∈ hostRows) (hq : q ∈ hostRows) (h : opOf r.pattern = opOf q.pattern) : r = q :=
  List.inj_on_of_nodup_map (f := fun r => opOf r.pattern) (l := hostRows) (by decide) hr hq h

/-- The command a row makes is encoded by the row's op code and the fields its mask leaves free. -/
theorem encode_command {r : HostRow} (h : r ∈ hostRows) (a : RegAddr) (v : Byte) :
    encode (r.command a v)
      = .host (hostWord (opOf r.pattern) (if aOf r.mask = 0#5 then a else 0#5) (if vOf r.mask = 0#8 then v else 0#8)) := by
  simp only [hostRows, List.mem_cons, List.not_mem_nil, or_false] at h
  rcases h with rfl | rfl | rfl | rfl | rfl | rfl | rfl | rfl | rfl | rfl | rfl | rfl <;> rfl

theorem and_eq_zero_iff_of_whole {n : Nat} {m : BitVec n} (hm : m = 0#n ∨ m = BitVec.allOnes n) (x : BitVec n) :
    x &&& m = 0#n ↔ m = 0#n ∨ x = 0#n := by
  constructor
  · obtain rfl | rfl := hm
    · exact fun _ => .inl rfl
    · exact fun h => .inr (BitVec.and_allOnes.symm.trans h)
  · rintro (rfl | rfl) <;> simp

/-- What a row needs of a word (R112): its op code, 0 in each field it does not use, no reserved bit. -/
theorem HostRow.accepts_iff {r : HostRow} (h : r ∈ hostRows) (w : Word) :
    r.accepts w = true
      ↔ opOf w = opOf r.pattern ∧ (aOf r.mask = 0#5 ∨ aOf w = 0#5) ∧ (vOf r.mask = 0#8 ∨ vOf w = 0#8)
        ∧ w &&& reservedMask = 0#32 := by
  obtain ⟨hpattern, hop, hres, ha, hv⟩ := hostRows_masks h
  calc r.accepts w = true
    _ ↔ w &&& r.mask = hostWord (opOf r.pattern) 0#5 0#8 := by rw [HostRow.accepts, beq_iff_eq, ← hpattern]
    _ ↔ _ := by
      rw [eq_hostWord_iff, opOf_and, aOf_and, vOf_and, BitVec.and_assoc, hop, hres, BitVec.and_allOnes,
        and_eq_zero_iff_of_whole ha, and_eq_zero_iff_of_whole hv]

/-- A row accepts a word exactly where the word is the encoding of the command the row makes of it (R116). -/
theorem HostRow.accepts_iff_encode {r : HostRow} (h : r ∈ hostRows) (w : Word) :
    r.accepts w = true ↔ encode (r.command (aOf w) (vOf w)) = .host w := by
  have hfield : ∀ {n : Nat} (m x : BitVec n), m = 0#n ∨ x = 0#n ↔ x = if m = 0#n then x else 0#n := by
    intro n m x
    by_cases hm : m = 0#n <;> simp [hm]
  rw [encode_command h, Encoded.host.injEq, eq_comm (b := w), eq_hostWord_iff, accepts_iff h, hfield, hfield]

/-! ### Decoding and encoding (R113, R116) -/

/-- What decoding a host word can be: the command of a row that accepts it, or BAD under its name where no row does. -/
theorem decodeHost_cases (w : Word) :
    (∃ r ∈ hostRows, r.accepts w = true ∧ decodeHost w = .ok (r.command (aOf w) (vOf w)))
      ∨ ((¬ ∃ r ∈ hostRows, r.accepts w = true) ∧ decodeHost w = .error (badName w)) := by
  unfold decodeHost
  cases hfind : hostRows.find? (fun r => r.accepts w) with
  | some r => exact .inl ⟨r, List.mem_of_find?_eq_some hfind, List.find?_some (p := (HostRow.accepts · w)) hfind, rfl⟩
  | none => exact .inr ⟨by simpa using List.find?_eq_none.1 hfind, rfl⟩

/-- No other row accepts a word that one row accepts, so that row decides what the word is. -/
theorem decodeHost_of_accepts {r : HostRow} (hr : r ∈ hostRows) {w : Word} (h : r.accepts w = true) :
    decodeHost w = .ok (r.command (aOf w) (vOf w)) := by
  obtain ⟨q, hq, haccepts, hd⟩ | ⟨hno, -⟩ := decodeHost_cases w
  · obtain ⟨hop, -⟩ := (HostRow.accepts_iff hr w).1 h
    obtain ⟨hop', -⟩ := (HostRow.accepts_iff hq w).1 haccepts
    rw [hd, hostRows_ext hr hq (hop.symm.trans hop')]
  · exact absurd ⟨r, hr, h⟩ hno

theorem encode_of_decodeHost {w : Word} {i : Instr} (h : decodeHost w = .ok i) : encode i = .host w := by
  obtain ⟨r, hr, haccepts, hd⟩ | ⟨-, hd⟩ := decodeHost_cases w
  · rw [← Except.ok.inj (hd.symm.trans h)]
    exact (HostRow.accepts_iff_encode hr w).1 haccepts
  · cases hd.symm.trans h

/-- Every host command is the command of a row, made of the fields of its own word. -/
theorem exists_hostRow_of_encode {i : Instr} {w : Word} (h : encode i = .host w) :
    ∃ r ∈ hostRows, r.command (aOf w) (vOf w) = i := by
  cases i with
  | rRegister _ | wRegister _ | wTxPayload | rRxPayload => cases h
  | _ =>
    cases h
    simp [hostRows, aOf_hostWord, vOf_hostWord]

theorem decodeHost_of_encode {i : Instr} {w : Word} (h : encode i = .host w) : decodeHost w = .ok i := by
  obtain ⟨r, hr, rfl⟩ := exists_hostRow_of_encode h
  exact decodeHost_of_accepts hr ((HostRow.accepts_iff_encode hr w).2 h)

theorem decodeSpi_of_encode {i : Instr} {c : Byte} (h : encode i = .spi c) : decodeSpi c = .ok i := by
  cases i with
  | rRegister a => cases h; exact Machine.decodeSpi_rcmd a
  | wRegister a => cases h; exact Machine.decodeSpi_wcmd a
  | wTxPayload => cases h; exact Machine.decodeSpi_txPayload
  | rRxPayload => cases h; exact Machine.decodeSpi_rxPayload
  | _ => cases h

/-- Settles O1: the row of a command accepts its word and no other row does; a command byte has the pattern of its command. -/
theorem decodeOfEncodeIsTheInstruction : Obligations.DecodeOfEncodeIsTheInstruction := by
  intro i
  cases h : encode i with
  | spi c => simp [decodeTableWord, decode, Encoded.nbits, Encoded.bits, decodeSpi_of_encode h]
  | host w => simp [decodeTableWord, decode, Encoded.nbits, Encoded.bits, decodeHost_of_encode h]

/-- Settles O2: a row accepts only the encoding of its command. -/
theorem everyWordHasOneMeaning : Obligations.EveryWordHasOneMeaning :=
  ⟨fun _ _ => encode_of_decodeHost, fun _ _ => Machine.encode_decodeSpi⟩

/-! ### The words that are BAD (R113-R115) -/

/-- Which words no row takes, by op code and by whether A, V and the reserved bits are 0 (R112, R114, R115). -/
theorem hostRows_reject_iff (op : BitVec 4) (aZero vZero reservedZero : Bool) :
    (¬ ∃ r ∈ hostRows, op = opOf r.pattern ∧ (aOf r.mask = 0#5 ∨ aZero = true) ∧ (vOf r.mask = 0#8 ∨ vZero = true)
        ∧ reservedZero = true)
      ↔ (0xC#4 ≤ op ∨ reservedZero = false
        ∨ (op ≠ 0x0#4 ∧ op ≠ 0x1#4 ∧ aZero = false)
        ∨ (op ∈ [0x1#4, 0x2#4, 0x5#4, 0x7#4, 0x8#4, 0xA#4] ∧ vZero = false)) := by
  revert op
  cases aZero <;> cases vZero <;> cases reservedZero <;> decide

/-- No row accepts a word exactly where its op code, a reserved bit or a field its command does not use forbids it. -/
theorem no_hostRow_accepts_iff (w : Word) :
    (¬ ∃ r ∈ hostRows, r.accepts w = true)
      ↔ (0xC#4 ≤ opOf w ∨ w &&& reservedMask ≠ 0#32
        ∨ (opOf w ≠ 0x0#4 ∧ opOf w ≠ 0x1#4 ∧ aOf w ≠ 0#5)
        ∨ (opOf w ∈ [0x1#4, 0x2#4, 0x5#4, 0x7#4, 0x8#4, 0xA#4] ∧ vOf w ≠ 0#8)) := by
  have hrows := hostRows_reject_iff (opOf w) (aOf w = 0#5) (vOf w = 0#8) (w &&& reservedMask = 0#32)
  simp only [decide_eq_true_eq, decide_eq_false_iff_not] at hrows
  rw [← hrows]
  exact not_congr (exists_congr fun r => and_congr_right fun hr => HostRow.accepts_iff hr w)

theorem decodeHost_of_no_row {w : Word} (h : ¬ ∃ r ∈ hostRows, r.accepts w = true) : decodeHost w = .error (badName w) := by
  obtain ⟨r, hr, haccepts, -⟩ | ⟨-, hd⟩ := decodeHost_cases w
  · exact absurd ⟨r, hr, haccepts⟩ h
  · exact hd

theorem decodeHost_bad_iff (w : Word) : (∃ e, decodeHost w = .error e) ↔ ¬ ∃ r ∈ hostRows, r.accepts w = true := by
  constructor
  · rintro ⟨e, he⟩ ⟨r, hr, haccepts⟩
    cases he.symm.trans (decodeHost_of_accepts hr haccepts)
  · exact fun h => ⟨_, decodeHost_of_no_row h⟩

/-- Settles O3: no row takes a reserved op code, a reserved bit or a field it does not use, and the name tells them apart. -/
theorem badWordsAreTheReservedOnes : Obligations.BadWordsAreTheReservedOnes := by
  refine ⟨fun w => (decodeHost_bad_iff w).trans (no_hostRow_accepts_iff w), fun w hop => ?_, fun w hop hres => ?_, rfl⟩
  · rw [decodeHost_of_no_row ((no_hostRow_accepts_iff w).2 (.inl hop)), badName, if_pos hop]
  · have hres' : w &&& reservedMask ≠ 0#32 := hres
    rw [decodeHost_of_no_row ((no_hostRow_accepts_iff w).2 (.inr (.inl hres'))), badName, if_neg (BitVec.not_le.2 hop),
      if_pos hres']

/-! ### The text syntax (R118, R120) -/

theorem encode_of_command? {line : AsmLine} {i : Instr} (h : line.command? = some i) :
    encode i = .host (Machine.commandWord i) := by
  cases line with
  | addr _ | txb _ | word _ => cases h
  | _ => cases h; rfl

theorem assemble_command {n : Nat} {line : AsmLine} {i : Instr} (h : line.command? = some i)
    (hwf : line.wellFormed n = true) : Machine.AsmLine.assemble n line = some [.issue (Machine.commandWord i)] := by
  refine (if_pos hwf).trans ?_
  cases line with
  | addr _ | txb _ | word _ => cases h
  | _ => cases h; rfl

theorem assemble_illFormed {n : Nat} {line : AsmLine} (h : line.wellFormed n = false) :
    Machine.AsmLine.assemble n line = none :=
  if_neg (Bool.eq_false_iff.1 h)

theorem fitsAddr_eq_false {a : Nat} (h : 31 < a) : fitsAddr a = false := decide_eq_false (Nat.not_le.2 h)

theorem fitsByte_eq_false {v : Nat} (h : 255 < v) : fitsByte v = false := decide_eq_false (Nat.not_le.2 h)

/-- Settles O7: a well-formed command line issues the word of its command, and an operand out of range makes a line ill formed. -/
theorem textLinesBecomeTheirWords : Obligations.TextLinesBecomeTheirWords := by
  refine ⟨fun n line i h => ?_, fun n a v h => assemble_illFormed ?_, fun n a h => assemble_illFormed (fitsAddr_eq_false h),
    fun n v h => ?_⟩
  · split_ifs with hwf
    · exact ⟨assemble_command h hwf, decodeHost_of_encode (encode_of_command? h)⟩
    · exact assemble_illFormed (Bool.eq_false_iff.2 hwf)
  · obtain ha | hv := h
    · simp only [AsmLine.wellFormed, fitsAddr_eq_false ha, Bool.false_and]
    · simp only [AsmLine.wellFormed, fitsByte_eq_false hv, Bool.and_false]
  · have hv := fitsByte_eq_false h
    exact ⟨assemble_illFormed hv, assemble_illFormed hv, assemble_illFormed hv, assemble_illFormed hv, assemble_illFormed hv⟩

/-! ### Sample words and the address decoder (R121-R123) -/

/-- Settles O5, by decoding each word. -/
theorem sampleWordsDecode : Obligations.SampleWordsDecode := by
  unfold Obligations.SampleWordsDecode
  decide

theorem wcmd_range (a : RegAddr) : 0x20#8 ≤ wcmd a ∧ wcmd a ≤ 0x3F#8 := by
  revert a
  decide

theorem rcmd_le (a : RegAddr) : rcmd a ≤ 0x1F#8 := by
  revert a
  decide

/-- The register of a valid pipe is the pipe's own of RX_ADDR_P0..RX_ADDR_P5 (R123, R190). -/
theorem pipeTarget_of_le {p : Byte} (h : p ≤ 5#8) :
    ∃ a, Machine.pipeTarget p = some a ∧ a.toNat = 0x0A + p.toNat ∧ 0x0A#5 ≤ a ∧ a ≤ 0x0F#5 := by
  have hp : p.toNat ≤ 5 := h
  have ha : (BitVec.ofNat 5 (0x0A + p.toNat)).toNat = 0x0A + p.toNat := by
    rw [BitVec.toNat_ofNat, Nat.mod_eq_of_lt (by omega)]
  exact ⟨_, if_pos hp, ha, by rw [BitVec.le_def, ha]; simp, by rw [BitVec.le_def, ha]; simp; omega⟩

/-- Settles O6: the command bytes by the five bits of the address, the pipe decoder by its bound. -/
theorem addressDecoderOutputs : Obligations.AddressDecoderOutputs :=
  ⟨fun a => ⟨rfl, wcmd_range a⟩, fun a => ⟨rfl, rcmd_le a⟩, fun _ => pipeTarget_of_le,
    fun _ h => if_neg (Nat.not_le.2 h)⟩

end Sys2Proof

namespace Sys2Proof.Machine

/-! ### The payload commands of the SPI port (R103, R104, R149-R151) -/

/-- Settles O21: the radio gathers the data bytes in order, and the release of CS_N pushes them. -/
theorem wTxPayloadResult : Obligations.WTxPayloadResult := by
  intro s srcs bs k h hbs
  have hk := h.known
  have hsend : sendAll bs (s.commanded 0xA0#8 .wTxPl)
      = (s.commanded 0xA0#8 .wTxPl).afterExchanges (sent (s.draws + 1) bs) (s.radio.within .wTxPl bs.length bs) := by
    rw [sendAll_txPayload bs (r := s.radio) (n := 0) (l := []) hk rfl]
    simp [State.afterExchanges, State.commanded, State.exchanged]
  exact spiFrame_known h decodeSpi_txPayload rfl (isData_outs srcs) ((opsRun_outs_commanded hbs).trans (congrArg _ hsend)) hk
    (Radio.onCS_within_wTxPl s.radio _ _) hk

/-- Reads of a payload from its start, as data exchanges that fill RXB from its start (R150). -/
theorem pulled_zero {s : State} {r : Radio} {n : Nat} {bs : List Byte} (hn : n ≤ s.rxb.length)
    (hbs : bs = (List.range n).map (fun q => ((r.rxq.headD [])[q]?).getD (Config.freeByte (s.draws + q)))) :
    s.pulled r 0 n
      = (s.afterExchanges (received bs) (r.within .rRxPl n [])).withReads s.tmp s.pollCnt (bs.map some ++ s.rxb.drop n) := by
  have hbytes : payloadBytes (r.rxq.headD []) s.draws 0 n = bs := by
    rw [payloadBytes_eq_map, hbs]
    simp
  have hcount : bs.length = n := by rw [← hbytes, payloadBytes_length]
  have hlatch : storeLatch bs 0 s.rxb = bs.map some ++ s.rxb.drop n := by
    rw [storeLatch_eq _ _ _ (by omega)]
    simp [hcount]
  simp only [State.pulled, hbytes, hlatch, State.afterExchanges, State.withReads, received_length, hcount, Nat.zero_add]

/-- Settles O22: the radio answers with the head payload position by position, and the release of CS_N drops it. -/
theorem rRxPayloadResult : Obligations.RRxPayloadResult := by
  intro s n bs k h hn hbs
  have hk := h.known
  have hreads := opsRun_reads_rxPayload n 0 (s := s.commanded 0x61#8 .rRxPl) hk rfl
  rw [← List.range_eq_range', pulled_zero (s := s.commanded 0x61#8 .rRxPl) hn hbs] at hreads
  exact spiFrame_known h decodeSpi_rxPayload rfl (by simp [MicroOp.isData]) hreads hk (Radio.onCS_within_rRxPl s.radio n []) hk

end Sys2Proof.Machine

/-! Framing of the bus in every environment, and BEGIN and SET_CHANNEL as wholes: the statements of the family
40_register_access. -/

namespace Sys2Proof.Machine

/-! ### The framing rule (R131) -/

/-- The bus trace keeps the framing rule and leaves CS_N at the level the block drives. -/
def State.BusFramed (s : State) : Prop := csAfter s.trace = some s.csN

/-- The framing rule speaks of the trace and of CS_N alone. -/
theorem State.BusFramed.congr {s t : State} (h : s.BusFramed) (htrace : t.trace = s.trace) (hcs : t.csN = s.csN) :
    t.BusFramed := by
  unfold State.BusFramed
  rw [htrace, hcs]
  exact h

/-- A line event of chip-select that moves the line opens or closes a frame. -/
theorem State.BusFramed.driveCS {s : State} (h : s.BusFramed) {l : Bool} (hl : s.csN = !l) : (driveCS l s).BusFramed := by
  unfold State.BusFramed at h ⊢
  cases l <;> simp [csAfter, h, hl]

/-- A line event of chip-enable keeps the rule outside a frame. -/
theorem State.BusFramed.driveCE {s : State} (h : s.BusFramed) (hcs : s.csN = true) (l : Bool) : (driveCE l s).BusFramed := by
  unfold State.BusFramed at h ⊢
  simp [csAfter, h, hcs]

/-- An exchange keeps the rule inside a frame, whatever the state takes from it. -/
theorem State.BusFramed.exchange {s t : State} (h : s.BusFramed) (hcs : s.csN = false) {m b : Byte}
    (htrace : t.trace = .xfer m b :: s.trace) (ht : t.csN = s.csN) : t.BusFramed := by
  unfold State.BusFramed at h ⊢
  simp [csAfter, htrace, ht, h, hcs]

theorem State.BusFramed.withEnv {s : State} (h : s.BusFramed) (e : List EnvStep) : (s.withEnv e).BusFramed := h

theorem State.BusFramed.settleTick {s : State} (h : s.BusFramed) : (settleTick s).BusFramed := h

theorem State.BusFramed.resetTick {s : State} (h : s.BusFramed) : (resetTick s).BusFramed := by
  unfold Machine.resetTick
  split_ifs
  · exact h.congr rfl rfl
  · exact h.settleTick.congr rfl rfl
  · exact h.settleTick

/-- An event primitive or the end step, at the head of what is left of a well framed procedure. -/
theorem State.BusFramed.primitive {s t : State} (h : s.BusFramed) {op : MicroOp} {k : List MicroOp}
    (hf : framed s.csN (op :: k) = true) (ht : primitive op (s.withSeq k) = .next t) : t.BusFramed := by
  have hk : (s.withSeq k).BusFramed := h
  cases op with
  | driveCS l =>
    cases ht
    simp only [framed, Bool.and_eq_true, beq_iff_eq] at hf
    exact hk.driveCS hf.1
  | driveCE l =>
    cases ht
    simp only [framed, Bool.and_eq_true] at hf
    exact hk.driveCE hf.1 l
  | cmd c =>
    cases ht
    simp only [framed, Bool.and_eq_true, Bool.not_eq_true'] at hf
    exact hk.exchange hf.1 rfl rfl
  | out src =>
    obtain ⟨b, rfl⟩ := primitive_out ht
    simp only [framed, Bool.and_eq_true, Bool.not_eq_true'] at hf
    exact hk.exchange hf.1 rfl rfl
  | read dst =>
    cases ht
    simp only [framed, Bool.and_eq_true, Bool.not_eq_true'] at hf
    exact hk.exchange hf.1 (readDataByte_trace _ dst) (readDataByte_csN _ dst)
  | finish e => cases ht; exact h.congr (by simp) (by simp)
  | pollLoop => cases ht; exact h
  | pollTest => cases ht; exact h

/-- The engine's step: the invariant holds the procedure to its frames. -/
theorem State.BusFramed.engineStep {s t : State} (h : s.BusFramed) (hinv : s.Inv) (ht : engineStep s = .next t) :
    t.BusFramed := by
  obtain ⟨-, rfl⟩ | ⟨-, rfl⟩ | ⟨-, -, rfl⟩ | ⟨hp, -, op, k, hr, ht⟩ | ⟨-, -, -, rfl⟩ := engineStep_cases ht
  · exact h
  · exact h.resetTick
  · exact h.settleTick
  · have hproc : framed s.csN s.seq = true := by simpa [hp] using hinv.procedure
    obtain ⟨hf, -⟩ := resolve_framed hproc hinv.polls
    exact h.primitive (hr ▸ hf) ht
  · exact h

/-- A host step makes no bus event. -/
theorem State.BusFramed.hostStep {s t : State} (h : s.BusFramed) {x : HostStep} (ht : hostStep x s = .next t) :
    t.BusFramed := by
  obtain ⟨-, rfl⟩ | ⟨w, -, rfl⟩ | ⟨i, b, -, rfl⟩ | ⟨i, b, -, rfl⟩ | ⟨r, b, -, rfl⟩ := hostStep_cases ht <;>
    exact h.congr rfl rfl

/-- A reset step closes an open frame before it lowers CE (R311, D36). -/
theorem State.BusFramed.resetStep {s : State} (h : s.BusFramed) : (resetStep s).BusFramed := by
  obtain ⟨hclosed, hcs⟩ : (if s.csN then s else Machine.driveCS true s).BusFramed
      ∧ (if s.csN then s else Machine.driveCS true s).csN = true := by
    split_ifs with hhigh
    · exact ⟨h, hhigh⟩
    · exact ⟨h.driveCS (by simpa using hhigh), rfl⟩
  have hlowered : ∀ u : State, u.BusFramed → u.csN = true → (if u.ce then Machine.driveCE false u else u).BusFramed := by
    intro u hu hcs
    split_ifs
    · exact hu.driveCE hcs false
    · exact hu
  exact hlowered _ hclosed hcs

/-- Settles O50: the invariant tells where in a frame the engine stands, so that every event it makes is one the frame allows; a
reset step closes the frame it finds. -/
theorem framingRuleKept : Obligations.FramingRuleKept := by
  refine ⟨fun _ _ => rfl, fun s t hinv hframed h => ?_⟩
  exact (step_keeps (P := fun u => u.Inv ∧ u.BusFramed)
    (hengine := fun _ _ hu ht => ⟨hu.1.engineStep ht, hu.2.engineStep hu.1 ht⟩)
    (henv := fun _ _ e hu _ => ⟨hu.1.withEnv e, hu.2.withEnv e⟩)
    (hreset := fun _ e hu _ => ⟨(hu.1.withEnv e).resetStep, (hu.2.withEnv e).resetStep⟩)
    (hrf := fun _ x e hu _ => ⟨(hu.1.withEnv e).rf x, hu.2.congr rfl rfl⟩)
    (hhost := fun _ _ e _ hu _ _ ht => ⟨(hu.1.withEnv e).hostStep ht, (hu.2.withEnv e).hostStep ht⟩)
    (hpoll := fun _ hu _ => ⟨hu.1.fewerPolls (Nat.zero_le _), hu.2⟩)
    (haccept := fun u w i hu hp _ hi =>
      ⟨hu.1.accept hp w (framed_procedureOf u.cfg hi) (pollReads_procedureOf u.cfg i), hu.2⟩)
    (hbad := fun _ w hu hp => ⟨hu.1.accept hp w rfl rfl, hu.2⟩)
    ⟨hinv, hframed⟩ h).2

/-! ### SET_CHANNEL (R173) -/

theorem regName_rfCh : regName 0x05#5 = .one 5 := regName_one rfl

/-- Settles O25: one write frame of RF_CH. -/
theorem setChannelResult : Obligations.SetChannelResult := by
  intro s channel h
  have hframe := opsRun_writeReg (.ofReady h (commandWord (.setChannel channel)) []) (a := 0x05#5) (src := .const channel)
    (by simp [regName_rfCh]) rfl
  rw [Radio.writeAt_one _ regName_rfCh] at hframe
  exact hostCommand_ready (e := .flag false) h (isEvent_writeRegOps _ _) (by simp [commandBound]; omega) hframe

/-! ### Write frames one after the other -/

/-- `s` after the write frame of a table row (R134, R148). -/
def State.wroteReg (s : State) (row : RegAddr × Byte) : State :=
  s.afterFrame (wcmd row.1) (sent (s.draws + 2) [row.2]) ((s.radio.writeAt s.cfg row.1 0 row.2).closed 1 [])

@[simp] theorem wroteReg_cfg (s : State) (row : RegAddr × Byte) : (s.wroteReg row).cfg = s.cfg := rfl

@[simp] theorem wroteReg_radio (s : State) (row : RegAddr × Byte) :
    (s.wroteReg row).radio = (s.radio.writeAt s.cfg row.1 0 row.2).closed 1 [] := rfl

theorem State.Still.wroteReg {s : State} (h : s.Still) {row : RegAddr × Byte} (hrow : regName row.1 ≠ .unmapped) :
    (s.wroteReg row).Still :=
  h.afterFrame rfl ((Radio.writeAt_known s.cfg 0 row.2 hrow).trans h.known)

/-- A table of writes to mapped registers is its frames in order. -/
theorem opsRun_writeTable {rows : List (RegAddr × Byte)} (hrows : ∀ row ∈ rows, regName row.1 ≠ .unmapped) {s : State}
    (h : s.Still) :
    opsRun (rows.flatMap (fun row => writeRegOps row.1 [.const row.2])) s = .ok (rows.foldl State.wroteReg s) := by
  induction rows generalizing s with
  | nil => rfl
  | cons row rows ih =>
    rw [List.forall_mem_cons] at hrows
    obtain ⟨hrow, hrest⟩ := hrows
    exact opsRun_then (opsRun_writeReg h hrow rfl) (ih hrest (h.wroteReg hrow))

/-- A table of writes leaves the parameters, the settling count, the schedule and CE. -/
theorem foldl_wroteReg_frame (rows : List (RegAddr × Byte)) (s : State) :
    (rows.foldl State.wroteReg s).cfg = s.cfg ∧ (rows.foldl State.wroteReg s).settleCnt = s.settleCnt
      ∧ (rows.foldl State.wroteReg s).env = s.env ∧ (rows.foldl State.wroteReg s).ce = s.ce := by
  induction rows generalizing s with
  | nil => exact ⟨rfl, rfl, rfl, rfl⟩
  | cons row rows ih => exact ih (s.wroteReg row)

/-! ### BEGIN (R170, R171) -/

theorem beginTable_mapped : ∀ row ∈ beginTable, regName row.1 ≠ .unmapped := by simp [beginTable, regName]

/-- 0x70 written to STATUS clears all three flags (R154, R171). -/
theorem Radio.writeAt_allFlags (p : Params) (r : Radio) :
    r.writeAt p 0x07#5 0 0x70#8 = { r with fTxDs := false, fMaxRt := false, fRxDr := false } := by
  have hmasks : 0x70#8 &&& txDsMask p ≠ 0#8 ∧ 0x70#8 &&& maxRtMask p ≠ 0#8 ∧ 0x70#8 &&& rxDrMask p ≠ 0#8 := by
    unfold txDsMask maxRtMask rxDrMask
    cases p.flags <;> decide
  simp [Radio.writeAt_status, hmasks]

/-- The 1-byte registers after BEGIN (R171). -/
def beginReg1 (p : Params) : Vector Byte 7 :=
  #v[radioStore p 0x00#5 0x0F#8, radioStore p 0x01#5 0x3F#8, radioStore p 0x02#5 0x03#8, radioStore p 0x03#5 0x03#8,
    radioStore p 0x04#5 0x04#8, radioStore p 0x05#5 0x02#8, radioStore p 0x06#5 0x07#8]

/-- Seven bytes written one by one fill the 1-byte registers. -/
theorem reg1_set_all (v : Vector Byte 7) (b0 b1 b2 b3 b4 b5 b6 : Byte) :
    ((((((v.set 0 b0).set 1 b1).set 2 b2).set 3 b3).set 4 b4).set 5 b5).set 6 b6 = #v[b0, b1, b2, b3, b4, b5, b6] := by
  refine Vector.ext fun i hi => ?_
  interval_cases i <;> simp

/-- The radio `r` with BEGIN's table written: the 1-byte registers as it says, all flags cleared (R171). -/
def Radio.setUp (p : Params) (r : Radio) : Radio :=
  { r with reg1 := beginReg1 p, fTxDs := false, fMaxRt := false, fRxDr := false }

@[simp] theorem Radio.setUp_reg1 (p : Params) (r : Radio) : (r.setUp p).reg1 = beginReg1 p := rfl
@[simp] theorem Radio.setUp_reg5 (p : Params) (r : Radio) : (r.setUp p).reg5 = r.reg5 := rfl
@[simp] theorem Radio.setUp_txq (p : Params) (r : Radio) : (r.setUp p).txq = r.txq := rfl
@[simp] theorem Radio.setUp_rxq (p : Params) (r : Radio) : (r.setUp p).rxq = r.rxq := rfl
@[simp] theorem Radio.setUp_known (p : Params) (r : Radio) : (r.setUp p).radioUnknown = r.radioUnknown := rfl
@[simp] theorem statusValue_setUp (p q : Params) (r : Radio) : statusValue q (r.setUp p) = 0#8 := by
  simp [statusValue, Radio.setUp]

/-- The frames of BEGIN's table leave the radio set up. -/
theorem foldl_wroteReg_beginTable_radio (s : State) :
    (beginTable.foldl State.wroteReg s).radio = (s.radio.setUp s.cfg).closed 1 [] := by
  have h1 : regName 0x01#5 = .one 1 := regName_one rfl
  have h2 : regName 0x02#5 = .one 2 := regName_one rfl
  have h3 : regName 0x03#5 = .one 3 := regName_one rfl
  have h4 : regName 0x04#5 = .one 4 := regName_one rfl
  simp only [beginTable, List.foldl_cons, List.foldl_nil, wroteReg_radio, wroteReg_cfg, Radio.writeAt_allFlags,
    Radio.writeAt_one s.cfg regName_config, Radio.writeAt_one s.cfg h1, Radio.writeAt_one s.cfg h2,
    Radio.writeAt_one s.cfg h3, Radio.writeAt_one s.cfg h4, Radio.writeAt_one s.cfg regName_rfCh,
    Radio.writeAt_one s.cfg regName_rfSetup]
  simp only [Radio.setUp, beginReg1, ← reg1_set_all s.radio.reg1]
  rfl

/-- `s` after a completed BEGIN: CE low and the table written (R170). -/
def State.begun (s : State) : State :=
  (beginTable.foldl State.wroteReg (s.afterCE false)).finished (commandWord .beginRadio) .ok false

/-- BEGIN on a Ready machine (R170). -/
theorem exec_begin {s : State} (h : s.Ready) : exec .beginRadio s = .next s.begun := by
  have hstill : (accept (commandWord .beginRadio) [] s).Still := .ofReady h _ _
  have htable := opsRun_writeTable beginTable_mapped (hstill.afterCE false)
  have hframes := (opsRun_driveCE hstill.settle hstill.known false _).trans htable
  exact hostCommand_ready (e := .flag false) h (by simp [MicroOp.isEvent])
    (by simp [commandBound, opCost, beginTable]; omega) hframes

@[simp] theorem finished_cfg (s : State) (w code flag) : (s.finished w code flag).cfg = s.cfg := rfl
@[simp] theorem finished_settleCnt (s : State) (w code flag) : (s.finished w code flag).settleCnt = s.settleCnt := rfl
@[simp] theorem finished_env (s : State) (w code flag) : (s.finished w code flag).env = s.env := rfl
@[simp] theorem finished_ce (s : State) (w code flag) : (s.finished w code flag).ce = s.ce := rfl
@[simp] theorem finished_radio (s : State) (w code flag) : (s.finished w code flag).radio = s.radio := rfl

/-- BEGIN leaves the parameters, the settling count and the schedule; CE is low. -/
theorem begun_frame (s : State) :
    s.begun.cfg = s.cfg ∧ s.begun.settleCnt = s.settleCnt ∧ s.begun.env = s.env ∧ s.begun.ce = false := by
  obtain ⟨hcfg, hsettle, henv, hce⟩ := foldl_wroteReg_frame beginTable (s.afterCE false)
  simp only [State.begun, finished_cfg, finished_settleCnt, finished_env, finished_ce]
  exact ⟨hcfg, hsettle, henv, hce⟩

theorem begun_cfg (s : State) : s.begun.cfg = s.cfg := by
  obtain ⟨hcfg, -⟩ := begun_frame s
  exact hcfg

/-- The radio after BEGIN has seen CE fall and is set up (R170, R240). -/
theorem begun_radio (s : State) : s.begun.radio = ((s.radio.onCE false).setUp s.cfg).closed 1 [] := by
  rw [State.begun, finished_radio]
  exact foldl_wroteReg_beginTable_radio (s.afterCE false)

/-- BEGIN leaves a Ready machine Ready: the next command may follow it. -/
theorem State.Ready.begun {s : State} (h : s.Ready) : s.begun.Ready := by
  obtain ⟨-, h0, -, hk, he⟩ := h
  obtain ⟨-, hsettle, henv, -⟩ := begun_frame s
  refine ⟨rfl, hsettle.trans h0, ?_, ?_, henv.trans he⟩
  · rw [begun_radio, Radio.closed_inFrame]
  · rw [begun_radio, Radio.closed_known, Radio.setUp_known, Radio.onCE_known, hk]

/-- The identity RADIO_STORE (R8). -/
theorem radioStore_of_nil {p : Params} (h : p.storeRows = []) (a : RegAddr) (v : Byte) : radioStore p a v = v := by
  simp [radioStore, h]

/-- Under the identity RADIO_STORE the registers 0x00..0x07 of a radio that is set up read back as the table says (R171). -/
theorem Radio.readAt_setUp {p : Params} (h : p.storeRows = []) (r : Radio) (k : Fin 8) :
    (r.setUp p).readAt p (BitVec.ofNat 5 k.val) 0
      = some (#v[0x0F#8, 0x3F#8, 0x03#8, 0x03#8, 0x04#8, 0x02#8, 0x07#8, 0x00#8] : Vector Byte 8)[k] := by
  refine Fin.lastCases ?_ (fun i => ?_) k
  · simp [Radio.readAt]
  · have hname : regName (BitVec.ofNat 5 i.val) = .one i := regName_one (by simp; omega)
    have hvalue : ∀ i : Fin 7, (#v[0x0F#8, 0x3F#8, 0x03#8, 0x03#8, 0x04#8, 0x02#8, 0x07#8] : Vector Byte 7)[i]
        = (#v[0x0F#8, 0x3F#8, 0x03#8, 0x03#8, 0x04#8, 0x02#8, 0x07#8, 0x00#8] : Vector Byte 8)[i.castSucc] := by decide
    simpa [Radio.readAt, hname, beginReg1, radioStore_of_nil h] using hvalue i

/-- Settles O24: BEGIN leaves the machine ready for the read or for the second BEGIN, which writes the same bytes again. -/
theorem beginReadsBackAndMayBeRepeated : Obligations.BeginReadsBackAndMayBeRepeated := by
  refine ⟨fun s k h hstore => ?_, fun s h => ?_⟩
  · have hread := Radio.readAt_setUp hstore (s.radio.onCE false) k
    rw [← Radio.readAt_closed (n := 1) (l := []), ← begun_radio, ← begun_cfg] at hread
    exact ⟨_, _, exec_begin h, exec_readReg h.begun _ (by rw [hread]; rfl), rfl⟩
  · obtain ⟨-, -, -, hce⟩ := begun_frame s.begun
    refine ⟨_, _, exec_begin h, exec_begin h.begun, ?_, ?_, ?_, ?_, ?_, hce⟩
    · simp [begun_radio, begun_cfg]
    · simp [begun_radio]
    · simp [begun_radio, Radio.onCE]
    · simp [begun_radio, Radio.onCE]
    · simp [begun_radio, Radio.onCE]

end Sys2Proof.Machine

/-! BEGIN as a whole: the trace of its eight write frames and the state they leave: the statement of the family
41_configuration. -/

namespace Sys2Proof.Machine

/-! ### The trace of a table of writes (R130, R134) -/

/-- The two bytes the engine sends in a table row's write frame: the command byte and the data byte (R134). -/
def rowBytes (row : RegAddr × Byte) : Byte × Byte := (wcmd row.1, row.2)

/-- Write frames of one data byte each, the newest first: `xs` holds their command and data bytes in order, each frame's snapshot
is `status`, and the free byte of the first has draw number `d`, of each later frame four more. -/
def writeFrames (p : Params) (status : Byte) (d : Nat) (xs : List (Byte × Byte)) : List BusEvent :=
  xs.zipIdx.reverse.flatMap (fun x => frameTrace p ((x.1.1, status) :: sent (d + 4 * x.2) [x.1.2]))

theorem writeFrames_concat (p : Params) (status : Byte) (d : Nat) (xs : List (Byte × Byte)) (x : Byte × Byte) :
    writeFrames p status d (xs ++ [x])
      = frameTrace p ((x.1, status) :: sent (d + 4 * xs.length) [x.2]) ++ writeFrames p status d xs := by
  simp [writeFrames, List.zipIdx_append]

/-- A write to any register but STATUS leaves the flags (R148). -/
theorem statusValue_writeAt (p q : Params) {a : RegAddr} (ha : regName a ≠ .status) (k : Nat) (m : Byte) (r : Radio) :
    statusValue q (r.writeAt p a k m) = statusValue q r := by
  unfold Radio.writeAt
  cases hname : regName a with
  | one i => dsimp only; split <;> rfl
  | status => exact absurd hname ha
  | five j => rfl
  | unmapped => rfl

theorem foldl_wroteReg_statusValue {rows : List (RegAddr × Byte)} (hrows : ∀ row ∈ rows, regName row.1 ≠ .status) (s : State) :
    statusValue s.cfg (rows.foldl State.wroteReg s).radio = statusValue s.cfg s.radio := by
  induction rows generalizing s with
  | nil => rfl
  | cons row rows ih =>
    rw [List.forall_mem_cons] at hrows
    obtain ⟨hrow, hrest⟩ := hrows
    exact (ih hrest (s.wroteReg row)).trans (statusValue_writeAt _ _ hrow 0 row.2 _)

/-- Each write frame of a table makes four draws: its two line events, its command byte and its data byte. -/
theorem foldl_wroteReg_draws (rows : List (RegAddr × Byte)) (s : State) :
    (rows.foldl State.wroteReg s).draws = s.draws + 4 * rows.length := by
  induction rows generalizing s with
  | nil => rfl
  | cons row rows ih =>
    have hfirst : (s.wroteReg row).draws = s.draws + 4 := rfl
    rw [List.foldl_cons, ih, hfirst, List.length_cons]
    omega

/-- A table of writes changes CS_N, LSTAT, the radio and the model's own trace and draw count, nothing else. -/
theorem foldl_wroteReg_unchanged (rows : List (RegAddr × Byte)) (s : State) :
    rows.foldl State.wroteReg s
      = { s with
          csN := (rows.foldl State.wroteReg s).csN
          lstat := (rows.foldl State.wroteReg s).lstat
          radio := (rows.foldl State.wroteReg s).radio
          trace := (rows.foldl State.wroteReg s).trace
          draws := (rows.foldl State.wroteReg s).draws } := by
  induction rows generalizing s with
  | nil => rfl
  | cons row rows ih => exact ih (s.wroteReg row)

/-- A table that writes STATUS in its last row at most: every frame's snapshot is the STATUS of the table's start. -/
theorem foldl_wroteReg_trace {rows : List (RegAddr × Byte)} (hrows : ∀ row ∈ rows.dropLast, regName row.1 ≠ .status)
    (s : State) :
    (rows.foldl State.wroteReg s).trace
      = writeFrames s.cfg (statusValue s.cfg s.radio) (s.draws + 2) (rows.map rowBytes) ++ s.trace := by
  induction rows using List.reverseRecOn with
  | nil => rfl
  | append_singleton rows row ih =>
    rw [List.dropLast_concat] at hrows
    have htrace := ih fun row hrow => hrows row (List.mem_of_mem_dropLast hrow)
    obtain ⟨hcfg, -⟩ := foldl_wroteReg_frame rows s
    rw [List.foldl_concat, List.map_append, List.map_singleton, writeFrames_concat, List.append_assoc, ← htrace,
      ← foldl_wroteReg_statusValue hrows s, List.length_map, Nat.add_right_comm, ← foldl_wroteReg_draws]
    simp only [State.wroteReg, State.afterFrame, hcfg, rowBytes]

/-- The snapshot of such a table's last frame stands in LSTAT (R132). -/
theorem foldl_wroteReg_lstat {rows : List (RegAddr × Byte)} (hrows : ∀ row ∈ rows, regName row.1 ≠ .status)
    (row : RegAddr × Byte) (s : State) :
    ((rows ++ [row]).foldl State.wroteReg s).lstat = statusValue s.cfg s.radio := by
  obtain ⟨hcfg, -⟩ := foldl_wroteReg_frame rows s
  rw [List.foldl_concat, ← foldl_wroteReg_statusValue hrows s, ← hcfg]
  rfl

/-! ### BEGIN (R170, R171) -/

/-- No row of BEGIN's table writes STATUS before the last. -/
theorem beginTable_dropLast : ∀ row ∈ beginTable.dropLast, regName row.1 ≠ .status := by simp [beginTable, regName]

/-- BEGIN's table leaves the radio set up, its eight frames on the trace, and in LSTAT the flags as they were before the last
frame cleared them (R132, R171). -/
theorem foldl_wroteReg_beginTable (s : State) :
    beginTable.foldl State.wroteReg s
      = { s with
          csN := true
          lstat := statusValue s.cfg s.radio
          radio := (s.radio.setUp s.cfg).closed 1 []
          trace := writeFrames s.cfg (statusValue s.cfg s.radio) (s.draws + 2) (beginTable.map rowBytes) ++ s.trace
          draws := s.draws + 32 } := by
  have hcs : (beginTable.foldl State.wroteReg s).csN = true := rfl
  have hlstat : (beginTable.foldl State.wroteReg s).lstat = statusValue s.cfg s.radio :=
    foldl_wroteReg_lstat beginTable_dropLast (0x07#5, 0x70#8) s
  rw [foldl_wroteReg_unchanged, hcs, hlstat, foldl_wroteReg_beginTable_radio, foldl_wroteReg_trace beginTable_dropLast,
    foldl_wroteReg_draws]
  rfl

/-- Settles O23: CE falls, then the eight frames of the table run in order. -/
theorem beginResult : Obligations.BeginResult := by
  intro s h
  rw [exec_begin h, State.begun, foldl_wroteReg_beginTable, State.afterCE, ← List.append_assoc]
  rfl

end Sys2Proof.Machine

namespace Sys2Proof.Machine

/-! ### Invalid operands (R192, R231, R261, R280, R282, R283) -/

/-- A host command whose procedure is an error ending alone runs no event and reads no latch: its end step is all (R280). -/
theorem exec_error {s : State} {i : Instr} {w : Word} {code : ResultCode} (hi : encode i = .host w)
    (hproc : procedureOf s.cfg i = [.finish (.error code)]) (hidle : s.phase = .idle) (h0 : s.settleCnt = 0) (he : s.env = []) :
    exec i s = .next ((beforeAccept i s).finished w code false) := by
  obtain ⟨n, -, hn⟩ := beforeAccept_eq i s
  rw [exec_host hi, hproc, hn]
  exact hostCommand_error w code hidle h0 he

theorem beforeAccept_writePayload {s : State} (hidle : s.phase = .idle) (len : Byte) :
    beforeAccept (.writePayload len) s = { s with pollCnt := 0 } := if_pos hidle

theorem procOpenReadingPipe_invalid {p : Byte} (h : 5#8 < p) : procOpenReadingPipe p = [.finish (.error .errPipe)] := by
  obtain ⟨-, -, -, hinvalid⟩ := addressDecoderOutputs
  rw [procOpenReadingPipe, hinvalid p h]

/-- Settles O37: each procedure tests its operand first, and an invalid one leaves it the error ending alone. -/
theorem invalidOperandsEndInTheirCode : Obligations.InvalidOperandsEndInTheirCode := by
  refine fun s v hidle h0 he => ⟨fun hpipe => ?_, fun hlen => ⟨?_, ?_⟩⟩
  · exact exec_error rfl (procOpenReadingPipe_invalid hpipe) hidle h0 he
  · rw [← beforeAccept_writePayload hidle v]
    exact exec_error rfl (if_pos hlen) hidle h0 he
  · exact exec_error rfl (if_pos hlen) hidle h0 he

end Sys2Proof.Machine

namespace Sys2Proof.Machine

/-! ### Mode control (R211, R213 to R215) -/

/-- Settles O29: CONFIG is read and written back with PRIM_RX set (`opsRun_modifyReg`), then CE rises (`opsRun_driveCE`). -/
theorem startListeningResult : Obligations.StartListeningResult :=
  fun _ _ h hc => exec_startListening h hc

/-- Settles O30: CE falls (`opsRun_driveCE`), then CONFIG is read and written back with PRIM_RX cleared (`opsRun_modifyReg`). -/
theorem stopListeningResult : Obligations.StopListeningResult :=
  fun _ _ h hc => exec_stopListening h hc

end Sys2Proof.Machine

/-! WRITE_PAYLOAD: how a poll resolves, and its three ends on a quiet machine: the statements of the family 44_transmit. -/

namespace Sys2Proof.Machine

/-! ### How a poll resolves (R234 to R237, R239) -/

theorem hasFlag_iff (mask b : Byte) : hasFlag mask b = true ↔ b &&& mask ≠ 0#8 := bne_iff_ne

/-- The test of a poll leads to the clear of TX_DS, else to the clear of MAX_RT, else back to the loop condition. -/
theorem resolve_pollTest {s : State} {k : List MicroOp} (hs : s.seq = .pollTest :: k) :
    resolve s =
      if s.tmp &&& txDsMask s.cfg ≠ 0#8 then pollResolved (txDsMask s.cfg) true
      else if s.tmp &&& maxRtMask s.cfg ≠ 0#8 then pollResolved (maxRtMask s.cfg) false
      else pollAgain s k := by
  simp only [resolve, hs, hasFlag_iff]

/-- The engine's step where the procedure resolves to a chip-select drive is its step with that drive at `seq`. -/
theorem engineStep_of_resolve_driveCS {s : State} {l : Bool} {k : List MicroOp} (hp : s.phase = .run) (h0 : s.settleCnt = 0)
    (hr : resolve s = .driveCS l :: k) : engineStep s = engineStep (s.withSeq (.driveCS l :: k)) :=
  engineStep_seq (k := s.seq) hp h0 hr rfl

theorem engineStep_of_resolve_finish {s : State} {e : Ending} {k : List MicroOp} (hp : s.phase = .run) (h0 : s.settleCnt = 0)
    (hr : resolve s = .finish e :: k) : engineStep s = .next (endStep e s) := by
  simp [engineStep, hp, h0, microStep, hr, primitive, endStep_seq]

/-- Settles O36: `resolve` makes the tests, TX_DS's first, and each way on begins with a chip-select drive or is the end step. -/
theorem pollResolution : Obligations.PollResolution := by
  intro s after hp h0 hs
  have hresolve := resolve_pollTest hs
  refine ⟨fun htx => ?_, fun htx hrt => ?_, fun htx hrt hcnt => ?_, fun htx hrt hcnt e k hafter => ?_⟩
  · exact engineStep_of_resolve_driveCS hp h0 (hresolve.trans (if_pos htx))
  · rw [if_neg (not_not.2 htx), if_pos hrt] at hresolve
    exact engineStep_of_resolve_driveCS hp h0 hresolve
  · rw [if_neg (not_not.2 htx), if_neg (not_not.2 hrt), pollAgain, if_pos hcnt] at hresolve
    exact engineStep_of_resolve_driveCS hp h0 hresolve
  · rw [if_neg (not_not.2 htx), if_neg (not_not.2 hrt), pollAgain, if_neg (Nat.not_lt.2 hcnt), hafter] at hresolve
    exact engineStep_of_resolve_finish hp h0 hresolve

/-! ### Payload frame and trigger pulse (R232, R233) -/

/-- `s` after the frame that pushes the payload `bs` and the trigger pulse of CE. -/
def State.triggered (s : State) (bs : List Byte) : State :=
  ((s.afterFrame 0xA0#8 (sent (s.draws + 2) bs)
      { s.radio.closed bs.length bs with txq := s.radio.txq ++ [bs] }).afterCE true).afterCE false

theorem State.Still.triggered {s : State} (h : s.Still) (bs : List Byte) : (s.triggered bs).Still := ⟨h.settle, rfl, h.known⟩

/-- Written bytes at the head of TXB are the bytes a payload frame sends (R39, R232). -/
theorem sourceBytes_txb {s : State} {n : Nat} {bs : List Byte} (hn : bs.length = n) (htxb : s.txb.take n = bs.map some) :
    ((List.range n).map .txb).map (fun src => sourceByte src s) = bs.map .ok := by
  subst hn
  refine List.ext_getElem (by simp) fun i _ h2 => ?_
  have hi : i < bs.length := by simpa using h2
  have hbyte : s.txb[i]? = some (some bs[i]) := by
    rw [← List.getElem?_take_of_lt hi, htxb]
    simp [hi]
  simp [sourceByte, hbyte]

/-- The positions of WRITE_PAYLOAD before its poll loop push the payload and pulse CE. -/
theorem opsRun_writePayloadEvents {s : State} (h : s.Still) {len : Byte} {bs : List Byte} (hlen : bs.length = len.toNat)
    (htxb : s.txb.take len.toNat = bs.map some) : opsRun (writePayloadEvents len) s = .ok (s.triggered bs) := by
  refine opsRun_then (opsRun_txPayload h (sourceBytes_txb hlen htxb)) ?_
  rw [opsRun_driveCE (by exact h.settle) (by exact h.known), opsRun_driveCE (by exact h.settle) (by exact h.known)]
  rfl

/-! ### An accepted command (R31)

OP, A, V and the result registers are out of the way of the bus events: they may be loaded after them. -/

theorem triggered_accept (w : Word) (k : List MicroOp) (s : State) (bs : List Byte) :
    (accept w k s).triggered bs = accept w k (s.triggered bs) := rfl

theorem polled_accept (w : Word) (k : List MicroOp) (s : State) : (accept w k s).polled = accept w k s.polled := rfl

theorem endStep_accept (w : Word) (k : List MicroOp) (s : State) (b : Bool) :
    endStep (.flag b) (accept w k s) = s.finished w .ok b := rfl

/-! ### The polls (R234 to R237) -/

/-- The write of TX_DS's mask to STATUS clears TX_DS alone (R154, R236). -/
theorem Radio.writeAt_txDsMask (p : Params) (r : Radio) : r.writeAt p 0x07#5 0 (txDsMask p) = { r with fTxDs := false } := by
  have hmask : txDsMask p ≠ 0#8 := by simpa using txDsMask_and_txDsMask p
  simp [Radio.writeAt_status, txDsMask_and_maxRtMask, txDsMask_and_rxDrMask, hmask]

/-- The write of MAX_RT's mask to STATUS clears MAX_RT alone (R154, R236). -/
theorem Radio.writeAt_maxRtMask (p : Params) (r : Radio) : r.writeAt p 0x07#5 0 (maxRtMask p) = { r with fMaxRt := false } := by
  have hmask : maxRtMask p ≠ 0#8 := by simpa using maxRtMask_and_maxRtMask p
  simp [Radio.writeAt_status, maxRtMask_and_txDsMask, maxRtMask_and_rxDrMask, hmask]

/-- A command runs, the environment making no move of its own, with no settling owed and a known radio between frames. -/
structure State.Quiet (s : State) : Prop extends s.Still where
  run : s.phase = .run
  alone : s.env = []

theorem State.Quiet.polled {s : State} (h : s.Quiet) : s.polled.Quiet := ⟨h.toStill.polled, h.run, h.alone⟩

/-- The loop condition before the first poll, with any step left (R239). -/
theorem runUntil_loopCondition {s : State} (h : s.Quiet) {e : Ending} {m : Nat} (hm : 0 < m) :
    runUntil commandDone m (s.withSeq [.pollLoop, .finish e]) = runUntil commandDone m (s.withSeq (pollAgain s [.finish e])) := by
  obtain ⟨n, rfl⟩ := Nat.exists_eq_add_of_lt hm
  exact runUntil_pollLoop _ h.run h.alone h.settle

/-- The loop condition with a poll to be made: the poll frame, then its test (R234, R239). -/
theorem runUntil_poll {s : State} (h : s.Quiet) {k : List MicroOp} (n : Nat) (hcnt : s.pollCnt < s.cfg.pollMax) :
    runUntil commandDone (4 + 2 * s.cfg.settleTicks + n) (s.withSeq (pollAgain s k))
      = runUntil commandDone n (s.polled.withSeq (.pollTest :: k)) := by
  have hrun := runUntil_ops (readRegOps 0x07#5 .poll) (.pollTest :: k) n (isEvent_readRegOps _ _) h.run h.alone h.settle
  rw [opsCost_readRegOps, opsRun_poll h.toStill] at hrun
  rw [pollAgain, if_pos hcnt]
  exact hrun

/-- `s` after the frame that writes `mask` to STATUS, which leaves the radio `r` (R236). -/
def State.cleared (s : State) (mask : Byte) (r : Radio) : State :=
  s.afterFrame 0x27#8 (sent (s.draws + 2) [mask]) (r.closed 1 [])

/-- The frame that clears the flag of a resolved poll, then the end step (R235, R236). -/
theorem runUntil_pollResolved {s : State} (h : s.Quiet) {mask : Byte} {success : Bool} {r : Radio} (n : Nat)
    (hr : s.radio.writeAt s.cfg 0x07#5 0 mask = r) :
    runUntil commandDone (4 + 2 * s.cfg.settleTicks + n + 1) (s.withSeq (pollResolved mask success))
      = .next (endStep (.flag success) (s.cleared mask r)) := by
  have hrun := runUntil_ops (writeRegOps 0x07#5 [.const mask]) [.finish (.flag success)] (n + 1) (isEvent_writeRegOps _ _)
    h.run h.alone h.settle
  rw [opsRun_writeReg h.toStill (by simp) rfl, hr] at hrun
  have hfuel : 4 + 2 * s.cfg.settleTicks + n + 1 = opsCost s.cfg (writeRegOps 0x07#5 [.const mask]) + (n + 1) := by
    simp; omega
  rw [pollResolved, hfuel, hrun]
  exact runUntil_finish (s := (s.cleared mask r).withSeq [.finish (.flag success)]) n h.run h.alone h.settle rfl

theorem pollLoopCost_one_add (p : Params) (n : Nat) :
    pollLoopCost p 1 + n = 4 + 2 * p.settleTicks + (4 + 2 * p.settleTicks + n + 1) := by
  simp only [pollLoopCost]
  omega

/-- A poll of a radio with TX_DS set (R235, R236). -/
theorem runUntil_poll_txDs {s : State} (h : s.Quiet) {k : List MicroOp} (n : Nat) (hcnt : s.pollCnt < s.cfg.pollMax)
    (hf : s.radio.fTxDs = true) :
    runUntil commandDone (pollLoopCost s.cfg 1 + n) (s.withSeq (pollAgain s k))
      = .next (endStep (.flag true) (s.polled.cleared (txDsMask s.cfg) { s.polled.radio with fTxDs := false })) := by
  have htest : hasFlag (txDsMask s.polled.cfg) s.polled.tmp = true := (hasFlag_txDs s.cfg s.radio).trans hf
  rw [pollLoopCost_one_add, runUntil_poll h _ hcnt, runUntil_pollTest_txDs _ h.polled.run h.polled.alone h.polled.settle htest]
  exact runUntil_pollResolved h.polled n (Radio.writeAt_txDsMask _ _)

/-- A poll of a radio with TX_DS clear and MAX_RT set (R235, R236). -/
theorem runUntil_poll_maxRt {s : State} (h : s.Quiet) {k : List MicroOp} (n : Nat) (hcnt : s.pollCnt < s.cfg.pollMax)
    (hf : s.radio.fTxDs = false) (hm : s.radio.fMaxRt = true) :
    runUntil commandDone (pollLoopCost s.cfg 1 + n) (s.withSeq (pollAgain s k))
      = .next (endStep (.flag false) (s.polled.cleared (maxRtMask s.cfg) { s.polled.radio with fMaxRt := false })) := by
  have htx : hasFlag (txDsMask s.polled.cfg) s.polled.tmp = false := (hasFlag_txDs s.cfg s.radio).trans hf
  have hrt : hasFlag (maxRtMask s.polled.cfg) s.polled.tmp = true := (hasFlag_maxRt s.cfg s.radio).trans hm
  rw [pollLoopCost_one_add, runUntil_poll h _ hcnt, runUntil_pollTest_maxRt _ h.polled.run h.polled.alone h.polled.settle htx hrt]
  exact runUntil_pollResolved h.polled n (Radio.writeAt_maxRtMask _ _)

/-! ### WRITE_PAYLOAD (R230) -/

/-- `s` as WRITE_PAYLOAD comes to its poll loop: `poll_cnt` cleared, the payload pushed, CE pulsed (R25, R232, R233). -/
def State.sentPayload (s : State) (bs : List Byte) : State := State.triggered { s with pollCnt := 0 } bs

/-- R331: the bound holds payload frame, pulse and poll loop. -/
theorem commandBound_eq_writePayload {p : Params} {len : Byte} (hmax : len.toNat ≤ p.payloadMax) :
    ∃ n, commandBound p = opsCost p (writePayloadEvents len) + (pollLoopCost p p.pollMax + n) := by
  have hlt : opsCost p (writePayloadEvents len) + pollLoopCost p p.pollMax < commandBound p :=
    lt_commandBound_long (by simp only [opsCost_writePayloadEvents, pollLoopCost]; omega)
  obtain ⟨n, hn⟩ := Nat.exists_eq_add_of_le hlt.le
  exact ⟨n, hn.trans (Nat.add_assoc _ _ _)⟩

/-- WRITE_PAYLOAD is its poll loop after payload frame and pulse, with steps enough left for POLL_MAX polls, the frame that clears
a flag, and the end step (R230, R331). -/
theorem exec_writePayload {s t : State} (h : s.Ready) {len : Byte} {bs : List Byte} (hmax : len.toNat ≤ s.cfg.payloadMax)
    (hlen : bs.length = len.toNat) (htxb : s.txb.take len.toNat = bs.map some)
    (ht : t = accept (commandWord (.writePayload len)) [] (s.sentPayload bs)) :
    t.Quiet ∧ ∃ n, exec (.writePayload len) s
      = runUntil commandDone (pollLoopCost s.cfg s.cfg.pollMax + n) (t.withSeq (pollAgain t [.finish (.flag false)])) := by
  have hstill : (accept (commandWord (.writePayload len)) [] { s with pollCnt := 0 }).Still :=
    .ofReady (s := { s with pollCnt := 0 }) h _ []
  have hevents := opsRun_writePayloadEvents hstill hlen htxb
  rw [triggered_accept, ← State.sentPayload, ← ht] at hevents
  obtain ⟨hidle, -, -, -, he⟩ := h
  have hquiet : t.Quiet := by
    rw [ht]
    exact ⟨hstill.triggered bs, rfl, he⟩
  obtain ⟨n, hn⟩ := commandBound_eq_writePayload hmax
  refine ⟨hquiet, n, ?_⟩
  have hrun := runUntil_ops (writePayloadEvents len) [.pollLoop, .finish (.flag false)] (pollLoopCost s.cfg s.cfg.pollMax + n)
    (s := accept (commandWord (.writePayload len)) [] { s with pollCnt := 0 }) (isEvent_writePayloadEvents len) rfl he
    hstill.settle
  have hfuel : s.env.length + commandBound s.cfg
      = opsCost s.cfg (writePayloadEvents len) + (pollLoopCost s.cfg s.cfg.pollMax + n) := by
    rw [he, List.length_nil, hn, Nat.zero_add]
  rw [hevents] at hrun
  rw [exec_host rfl, beforeAccept_writePayload hidle, procedureOf, procWritePayload_accepted hmax, hostCommand, if_pos hidle,
    runCommand, ← runUntil_loopCondition hquiet (by simp only [pollLoopCost]; omega)]
  exact (congrArg (fun m => runUntil commandDone m _) hfuel).trans hrun

/-- The same with a first poll to be made: steps enough are left for it, the frame that clears a flag, and the end step. -/
theorem exec_writePayload_poll {s t : State} (h : s.Ready) {len : Byte} {bs : List Byte} (hmax : len.toNat ≤ s.cfg.payloadMax)
    (hpoll : 1 ≤ s.cfg.pollMax) (hlen : bs.length = len.toNat) (htxb : s.txb.take len.toNat = bs.map some)
    (ht : t = accept (commandWord (.writePayload len)) [] (s.sentPayload bs)) :
    t.Quiet ∧ t.pollCnt < t.cfg.pollMax ∧ ∃ n, exec (.writePayload len) s
      = runUntil commandDone (pollLoopCost t.cfg 1 + n) (t.withSeq (pollAgain t [.finish (.flag false)])) := by
  obtain ⟨hquiet, n, hexec⟩ := exec_writePayload h hmax hlen htxb ht
  obtain ⟨m, hm⟩ := Nat.exists_eq_add_of_le' hpoll
  have hcfg : t.cfg = s.cfg := by rw [ht]; rfl
  have hcnt : t.pollCnt = 0 := by rw [ht]; rfl
  have hfuel : pollLoopCost s.cfg s.cfg.pollMax + n = pollLoopCost s.cfg 1 + (m * (4 + 2 * s.cfg.settleTicks) + n) := by
    simp only [pollLoopCost, hm, Nat.succ_mul]
    omega
  exact ⟨hquiet, by rw [hcnt, hcfg]; exact hpoll, _, by rw [hexec, hcfg, hfuel]⟩

/-- Settles O33: the first poll reads TX_DS, which is tested first and cleared alone. -/
theorem writePayloadSuccess : Obligations.WritePayloadSuccess := by
  intro s s2 len bs h hmax hpoll hlen htxb hf hs2
  obtain ⟨hquiet, hcnt, n, hexec⟩ := exec_writePayload_poll h hmax hpoll hlen htxb rfl
  rw [hexec, runUntil_poll_txDs hquiet n hcnt hf, polled_accept, hs2]
  rfl

/-- Settles O34: the first poll reads TX_DS clear and MAX_RT set, which is cleared alone. -/
theorem writePayloadFailure : Obligations.WritePayloadFailure := by
  intro s s2 len bs h hmax hpoll hlen htxb hf hm hs2
  obtain ⟨hquiet, hcnt, n, hexec⟩ := exec_writePayload_poll h hmax hpoll hlen htxb rfl
  rw [hexec, runUntil_poll_maxRt hquiet n hcnt hf hm, polled_accept, hs2]
  rfl

/-- Settles O35: no poll reads a flag (`runUntil_polls`), so the end step that stands after the loop is all that follows. -/
theorem writePayloadTimeout : Obligations.WritePayloadTimeout := by
  intro s len bs h hmax hlen htxb hf hm
  obtain ⟨hquiet, n, hexec⟩ := exec_writePayload h hmax hlen htxb rfl
  have hpolls := runUntil_polls (e := .flag false) s.cfg.pollMax (4 + 2 * s.cfg.settleTicks + n) hquiet.run hquiet.alone
    hquiet.toStill hf hm (Nat.zero_add _)
  have hcomm : Function.Commute State.polled (accept (commandWord (.writePayload len)) []) := polled_accept _ _
  have hfuel : pollLoopCost s.cfg s.cfg.pollMax + n
      = s.cfg.pollMax * (4 + 2 * s.cfg.settleTicks) + 1 + (4 + 2 * s.cfg.settleTicks + n) := by
    simp only [pollLoopCost]
    omega
  rw [hcomm.iterate_left, endStep_accept] at hpolls
  rw [hexec, hfuel]
  exact hpolls

end Sys2Proof.Machine

namespace Sys2Proof.Machine

/-! ### Commands that end in an error (R280, R287) -/

/-- A command that may end in an error does nothing else: its procedure is that error ending alone (R280). -/
theorem procedureOf_of_error_mem {p : Params} {i : Instr} {code : ResultCode} (h : .error code ∈ endingsOf p i) :
    procedureOf p i = [.finish (.error code)] := by
  cases i with
  | openReadingPipe v =>
    simp only [endingsOf, List.mem_singleton] at h
    split_ifs at h with hpipe
    cases h
    exact procOpenReadingPipe_invalid hpipe
  | writePayload len =>
    simp only [endingsOf] at h
    split_ifs at h with hlen
    · cases List.mem_singleton.1 h
      exact if_pos hlen
    · simp at h
  | readPayload len =>
    simp only [endingsOf, List.mem_singleton] at h
    split_ifs at h with hlen
    cases h
    exact if_pos hlen
  | _ => simp [endingsOf] at h

/-- Only the error ending leaves a code other than OK (R35, R280). -/
theorem Ending.eq_error_of_code {e : Ending} (h : e.code ≠ .ok) : e = .error e.code := by
  cases e with
  | error code => rfl
  | _ => exact absurd rfl h

/-- What an error ending leaves as it is (R280): the bus events so far, RDATA, LSTAT, the lines and the latches. -/
def State.untouchedByErrors (s : State) :=
  (s.trace, s.rdata, s.lstat, s.csN, s.ce, s.addrl, s.txb, s.rxb)

/-- An error ending is all the machine still has to do, with no settling left and no reset scheduled. -/
structure State.OnlyError (code : ResultCode) (s : State) : Prop where
  run : s.phase = .run
  settled : s.settleCnt = 0
  seq : s.seq = [.finish (.error code)]
  noReset : s.noReset

/-- Where an error ending is all that is left, the engine takes it; a move of any other agent leaves it to be taken. Neither
touches what an error ending leaves as it is. -/
theorem State.OnlyError.move {code : ResultCode} {s t : State} (h : s.OnlyError code) (ht : move s = .next t) :
    (t.phase = .idle ∨ t.OnlyError code) ∧ t.untouchedByErrors = s.untouchedByErrors := by
  obtain ⟨e, -, ht⟩ | ⟨e, he, -⟩ | ⟨x, e, he, rfl⟩ | ⟨x, e, b, he, rfl⟩ := move_run_cases h.run ht
  · have hresolve : resolve (s.withEnv e) = [.finish (.error code)] := by simp [resolve, h.seq]
    have hend := engineStep_of_resolve_finish (s := s.withEnv e) h.run h.settled hresolve
    cases hend.symm.trans ht
    exact ⟨.inl rfl, rfl⟩
  · exact absurd he (noReset_head h.noReset)
  · exact ⟨.inr ⟨h.run, h.settled, h.seq, noReset_tail h.noReset he⟩, rfl⟩
  · exact ⟨.inr ⟨h.run, h.settled, h.seq, noReset_tail h.noReset he⟩, rfl⟩

/-- With no reset, the run of a host command whose procedure is an error ending alone touches none of these. -/
theorem exec_error_untouched {s t : State} {i : Instr} {w : Word} {code : ResultCode} (hi : encode i = .host w)
    (hproc : procedureOf s.cfg i = [.finish (.error code)]) (hidle : s.phase = .idle) (h0 : s.settleCnt = 0) (hno : s.noReset)
    (h : exec i s = .next t) : t.untouchedByErrors = s.untouchedByErrors := by
  obtain ⟨n, -, hn⟩ := beforeAccept_eq i s
  rw [exec_host hi, hn, hostCommand, if_pos hidle, hproc, runCommand] at h
  have haccepted : State.OnlyError code (accept w [.finish (.error code)] { s with pollCnt := n }) := ⟨rfl, h0, rfl, hno⟩
  refine (runUntil_keeps (P := fun u => (u.phase = .idle ∨ u.OnlyError code) ∧ u.untouchedByErrors = s.untouchedByErrors)
    commandDone (fun u v hu hd hm => ?_) _ _ t ⟨.inr haccepted, rfl⟩ h).2
  obtain ⟨hended | hleft, hsame⟩ := hu
  · simp [commandDone, hended] at hd
  · obtain ⟨hphase, hv⟩ := hleft.move hm
    exact ⟨hphase, hv.trans hsame⟩

/-- Settles O54: an error code means the error ending, which then was the whole procedure, and no move around it touches these. -/
theorem errorsAreSilentOnTheBus : Obligations.ErrorsAreSilentOnTheBus := by
  intro s t i w hs hno hidle hi h hcode
  obtain ⟨e, he, u, hu⟩ := exec_host_ends hs hno hidle hi h
  rw [hu, endStep_rcode] at hcode
  rw [Ending.eq_error_of_code hcode] at he
  have hsame := exec_error_untouched hi (procedureOf_of_error_mem he) hidle (hs.settle.2 hidle) hno h
  simpa [State.untouchedByErrors] using hsame

/-! ### RF steps without RF_CAUSAL (R292) -/

/-- Without RF_CAUSAL every RF step is enabled (R292). -/
theorem rfStep_of_not_rfCausal {p : Params} (hc : p.rfCausal = false) (x : RfStep) (r : Radio) :
    rfStep p x r = rfEffect p x r := by
  simp [rfStep, rfEnabled, hc]

/-- Settles O41: the step has its effect whatever the radio's state, and a transmit outcome resolves no trigger. -/
theorem rfStepEffects : Obligations.RfStepEffects := by
  intro s x e he hc hk
  rw [step_rf he hk, rfStep_of_not_rfCausal hc]
  cases x with
  | txDone => simp [rfEffect, hc]
  | txFail => simp [rfEffect, hc]
  | rx b => rfl
  | txDrop => rfl

end Sys2Proof.Machine

/-! Reset from any state and the settling period after it, and the bus events of every host command: the statements of the family
70_reset_and_hazards. -/

namespace Sys2Proof.Machine

/-! ### The reset step (R310, R311) -/

theorem step_reset {s : State} {e : List EnvStep} (he : s.env = .reset :: e) : step s = .next (resetStep (s.withEnv e)) := by
  simp [step, scheduled, he]

/-- The line events of a reset, CS_N's before CE's (R311, D36). -/
theorem resetLines_trace (s : State) :
    (resetLines s).trace = (if s.ce then [.ce false] else []) ++ (if s.csN then [] else [.cs true]) ++ s.trace := by
  rw [resetLines_eq]
  cases s.csN <;> cases s.ce <;> rfl

theorem Radio.onCS_known (l : Bool) (r : Radio) : (r.onCS l).radioUnknown = r.radioUnknown := by
  unfold Radio.onCS; split <;> rfl

/-- A known radio reacts to each line event of a reset (R311). -/
theorem resetLines_radio {s : State} (hk : s.radio.radioUnknown = false) :
    (resetLines s).radio = (if s.ce then Radio.onCE false else id) ((if s.csN then id else Radio.onCS true) s.radio) := by
  have hcs : (s.react (Radio.onCS true)).radio = s.radio.onCS true :=
    react_radio_known hk ((Radio.onCS_known _ _).trans hk)
  have hce : ∀ u : State, u.radio.radioUnknown = false → (u.react (Radio.onCE false)).radio = u.radio.onCE false :=
    fun u hu => react_radio_known hu ((Radio.onCE_known _ _).trans hu)
  rw [resetLines_eq]
  cases hc : s.csN <;> cases he : s.ce
  · exact hcs
  · exact (hce (driveCS true s) (by rw [driveCS_radio, hcs, Radio.onCS_known, hk])).trans (by rw [driveCS_radio, hcs]; rfl)
  · rfl
  · exact hce s hk

/-- Settles O46: the head of the schedule is a reset step, whose line events come before it sets its values. -/
theorem resetStepFromAnyState : Obligations.ResetStepFromAnyState := by
  intro s e he
  exact ⟨_, step_reset he, rfl, resetStep_settleCnt _, rfl, rfl, rfl, rfl, rfl, rfl, rfl, rfl, rfl, rfl, rfl, rfl,
    resetStep_csN _, resetStep_ce _, resetStep_addrl _, resetStep_txb _, resetStep_rxb _, resetStep_cfg _, resetStep_env _,
    resetLines_trace (s.withEnv e), fun hk => resetLines_radio (s := s.withEnv e) hk⟩

/-! ### RESET_SETTLE (R312) -/

/-- While a tick is still to come after the first `k`, RESET_SETTLE only ticks. -/
theorem run_resetSettle_ticks (k m : Nat) {s : State} (hp : s.phase = .resetSettle) (hn : s.settleCnt = k + (m + 1))
    (he : s.env = []) :
    Host.Core.run core k s = .next { s with settleCnt := m + 1, trace := List.replicate k .tick ++ s.trace } := by
  induction k generalizing s with
  | zero =>
    rw [Nat.zero_add] at hn
    simp [Host.Core.run, ← hn]
  | succ k ih =>
    have htick : resetTick s = settleTick s := by rw [resetTick, if_neg (by omega), if_neg (by omega)]
    rw [run_next k (step_resetSettle hp he), htick, ih (s := settleTick s) hp (by rw [settleTick_settleCnt, hn]; omega) he]
    simp [settleTick, List.replicate_succ', List.append_assoc]

/-- Settles O47: every tick but the last leaves the engine in RESET_SETTLE, and the last one sets IDLE. -/
theorem resetSettleEndsInIdle : Obligations.ResetSettleEndsInIdle := by
  intro s n hp hbusy hn he
  refine ⟨run_resetSettle n hp hn he, fun k hk => ?_⟩
  obtain ⟨m, rfl⟩ := Nat.exists_eq_add_of_le hk
  exact ⟨_, run_resetSettle_ticks k m hp (hn.trans (Nat.add_assoc k m 1)) he, hp, hbusy, rfl⟩

end Sys2Proof.Machine

namespace Sys2Proof.Machine

/-! ### What a stretch of the run adds to the trace (R330) -/

/-- An exchange (R13). -/
def BusEvent.isXfer : BusEvent → Bool
  | .xfer _ _ => true
  | .cs _ | .ce _ | .tick => false

/-- A line event (R13). -/
def BusEvent.isLine : BusEvent → Bool
  | .cs _ | .ce _ => true
  | .xfer _ _ | .tick => false

/-- The events `new` are `x` exchanges and `l` line events, with as many ticks as `l` settling periods have (R211). -/
structure EventsCount (p : Params) (new : List BusEvent) (x l : Nat) : Prop where
  xfers : new.countP BusEvent.isXfer = x
  lines : new.countP BusEvent.isLine = l
  ticks : new.countP (· == .tick) = l * p.settleTicks

theorem EventsCount.append {p : Params} {new new' : List BusEvent} {x l x' l' : Nat} (h : EventsCount p new x l)
    (h' : EventsCount p new' x' l') : EventsCount p (new' ++ new) (x + x') (l + l') where
  xfers := by rw [List.countP_append, h.xfers, h'.xfers, Nat.add_comm]
  lines := by rw [List.countP_append, h.lines, h'.lines, Nat.add_comm]
  ticks := by rw [List.countP_append, h.ticks, h'.ticks, Nat.add_mul, Nat.add_comm]

/-- Every bus event is an exchange, a line event or a tick. -/
theorem length_eq_countP (t : List BusEvent) :
    t.length = t.countP BusEvent.isXfer + t.countP BusEvent.isLine + t.countP (· == .tick) := by
  induction t with
  | nil => rfl
  | cons e t ih =>
    rw [List.length_cons, ih]
    cases e <;> simp [List.countP_cons, BusEvent.isXfer, BusEvent.isLine] <;> omega

theorem duration_eq (p : Params) (t : List BusEvent) :
    duration p t = t.countP (· == .tick) + p.xferTicks * t.countP BusEvent.isXfer := rfl

theorem eventsCount_nil (p : Params) : EventsCount p [] 0 0 := ⟨rfl, rfl, (Nat.zero_mul _).symm⟩

theorem eventsCount_xfer (p : Params) (m b : Byte) : EventsCount p [.xfer m b] 1 0 :=
  ⟨rfl, rfl, (Nat.zero_mul _).symm⟩

theorem eventsCount_xfers (p : Params) (xs : List (Byte × Byte)) :
    EventsCount p (xs.map (fun x => BusEvent.xfer x.1 x.2)).reverse xs.length 0 := by
  induction xs with
  | nil => exact eventsCount_nil p
  | cons x xs ih =>
    rw [List.map_cons, List.reverse_cons, List.length_cons, Nat.add_comm]
    exact (eventsCount_xfer p x.1 x.2).append ih

/-- A line event with its settling (R211). -/
theorem eventsCount_settled (p : Params) {e : BusEvent} (he : e.isLine = true) : EventsCount p (settleTrace p ++ [e]) 0 1 := by
  cases e with
  | cs l => constructor <;> simp [settleTrace, List.countP_replicate, BusEvent.isXfer, BusEvent.isLine]
  | ce l => constructor <;> simp [settleTrace, List.countP_replicate, BusEvent.isXfer, BusEvent.isLine]
  | xfer m b => cases he
  | tick => cases he

/-- A frame has its two line events and its exchanges (R130). -/
theorem eventsCount_frameTrace (p : Params) (xs : List (Byte × Byte)) : EventsCount p (frameTrace p xs) xs.length 2 := by
  have hframe := ((eventsCount_settled p (e := .cs false) rfl).append (eventsCount_xfers p xs)).append
    (eventsCount_settled p (e := .cs true) rfl)
  simpa [frameTrace] using hframe

/-- `t` comes after `s` with `x` more exchanges and `l` more line events on its trace. -/
def State.Adds (s t : State) (x l : Nat) : Prop := t.cfg = s.cfg ∧ ∃ new, t.trace = new ++ s.trace ∧ EventsCount s.cfg new x l

theorem State.Adds.refl (s : State) : s.Adds s 0 0 := ⟨rfl, [], rfl, eventsCount_nil _⟩

theorem State.Adds.trans {s t u : State} {x l x' l' : Nat} (h : s.Adds t x l) (h' : t.Adds u x' l') :
    s.Adds u (x + x') (l + l') := by
  obtain ⟨hcfg, new, hnew, hcount⟩ := h
  obtain ⟨hcfg', new', hnew', hcount'⟩ := h'
  rw [hcfg] at hcount'
  exact ⟨hcfg'.trans hcfg, new' ++ new, by rw [hnew', hnew, List.append_assoc], hcount.append hcount'⟩

theorem State.Adds.xfer (s : State) (m : Byte) : s.Adds (xfer m s) 1 0 :=
  ⟨rfl, [.xfer m s.misoByte], rfl, eventsCount_xfer _ _ _⟩

theorem State.Adds.line {s t : State} {e : BusEvent} (he : e.isLine = true) (hcfg : t.cfg = s.cfg)
    (ht : t.trace = settleTrace s.cfg ++ e :: s.trace) : s.Adds t 0 1 :=
  ⟨hcfg, settleTrace s.cfg ++ [e], by rw [ht, List.append_assoc]; rfl, eventsCount_settled _ he⟩

/-- The counts of R330 from those of exchanges and line events. -/
theorem State.Adds.counted {s t : State} {n : Nat × Nat × Nat} {x l : Nat} (h : s.Adds t x l) (hn : n = (x, l, l)) :
    ∃ new, t.trace = new ++ s.trace
      ∧ new.length = n.1 + n.2.1 + n.2.2 * s.cfg.settleTicks
      ∧ new.countP (· == .tick) = n.2.2 * s.cfg.settleTicks
      ∧ duration s.cfg new = n.2.2 * s.cfg.settleTicks + s.cfg.xferTicks * n.1 := by
  subst hn
  obtain ⟨-, new, hnew, hcount⟩ := h
  refine ⟨new, hnew, ?_, hcount.ticks, ?_⟩
  · rw [length_eq_countP, hcount.xfers, hcount.lines, hcount.ticks]
  · rw [duration_eq, hcount.xfers, hcount.ticks]

/-! ### Event primitives -/

/-- A position that exchanges a byte. -/
def MicroOp.isExchange : MicroOp → Bool
  | .cmd _ | .out _ | .read _ => true
  | .driveCS _ | .driveCE _ | .pollLoop | .pollTest | .finish _ => false

/-- A position that drives a line. -/
def MicroOp.isDrive : MicroOp → Bool
  | .driveCS _ | .driveCE _ => true
  | .cmd _ | .out _ | .read _ | .pollLoop | .pollTest | .finish _ => false

/-- One position of a procedure adds its exchange, or its line event with its settling. -/
theorem opStep_adds {s t : State} {op : MicroOp} (h : opStep s op = .ok t) :
    s.Adds t ([op].countP MicroOp.isExchange) ([op].countP MicroOp.isDrive) := by
  cases op with
  | driveCS l => cases h; exact .line (e := .cs l) rfl rfl rfl
  | driveCE l => cases h; exact .line (e := .ce l) rfl rfl rfl
  | cmd c => cases h; exact .xfer s c
  | out src =>
    rw [opStep] at h
    cases hb : sourceByte src s with
    | ok b => rw [hb] at h; cases h; exact .xfer s b
    | error f => rw [hb] at h; cases h
  | read dst => cases h; cases dst <;> exact .xfer s readFill
  | pollLoop => cases h; exact .refl _
  | pollTest => cases h; exact .refl _
  | finish e => cases h; exact .refl _

theorem opsRun_adds {ops : List MicroOp} {s t : State} (h : opsRun ops s = .ok t) :
    s.Adds t (ops.countP MicroOp.isExchange) (ops.countP MicroOp.isDrive) := by
  induction ops generalizing s with
  | nil => cases h; exact .refl _
  | cons op ops ih =>
    rw [opsRun] at h
    cases hu : opStep s op with
    | error f => rw [hu] at h; cases h
    | ok u =>
      rw [hu] at h
      rw [← List.singleton_append, List.countP_append, List.countP_append]
      exact (opStep_adds hu).trans (ih h)

theorem State.Adds.ended {s t : State} {x l : Nat} (h : s.Adds t x l) (e : Ending) : s.Adds (endStep e t) x l := by
  rw [State.Adds, endStep_cfg, endStep_trace]
  exact h

@[simp] theorem countP_isExchange_frameOps (c : Byte) (outs : List ByteSource) (dsts : List ByteDest) :
    (frameOps c outs dsts).countP MicroOp.isExchange = 1 + outs.length + dsts.length := by
  have houts : outs.countP (MicroOp.isExchange ∘ .out) = outs.length := List.countP_eq_length.2 fun _ _ => rfl
  have hdsts : dsts.countP (MicroOp.isExchange ∘ .read) = dsts.length := List.countP_eq_length.2 fun _ _ => rfl
  simp [frameOps, List.countP_cons, MicroOp.isExchange, houts, hdsts]
  omega

@[simp] theorem countP_isDrive_frameOps (c : Byte) (outs : List ByteSource) (dsts : List ByteDest) :
    (frameOps c outs dsts).countP MicroOp.isDrive = 2 := by
  have houts : outs.countP (MicroOp.isDrive ∘ .out) = 0 := List.countP_eq_zero.2 fun _ _ => Bool.false_ne_true
  have hdsts : dsts.countP (MicroOp.isDrive ∘ .read) = 0 := List.countP_eq_zero.2 fun _ _ => Bool.false_ne_true
  simp [frameOps, List.countP_cons, MicroOp.isDrive, houts, hdsts]

@[simp] theorem countP_isExchange_writeRegOps (a : RegAddr) (outs : List ByteSource) :
    (writeRegOps a outs).countP MicroOp.isExchange = 1 + outs.length := countP_isExchange_frameOps _ _ _

@[simp] theorem countP_isDrive_writeRegOps (a : RegAddr) (outs : List ByteSource) :
    (writeRegOps a outs).countP MicroOp.isDrive = 2 := countP_isDrive_frameOps _ _ _

/-! ### Commands without a poll -/

/-- R331: a procedure of event primitives and an end step is within the bound on a command's steps. -/
theorem opsCost_lt_commandBound {p : Params} {i : Instr} {w : Word} {ops : List MicroOp} {e : Ending} (hi : encode i = .host w)
    (hproc : procedureOf p i = ops ++ [.finish e]) (hops : ops.all MicroOp.isEvent = true) :
    opsCost p ops + 1 < commandBound p := by
  have hpolls := pollReads_procedureOf p i
  have hsteps := stepsLeft_procedureOf_lt p (Nat.zero_le _) hi
  rw [hproc, pollReads_eq_count, List.count_append] at hpolls
  rwa [hproc, stepsLeft_finish p 0 hops (List.count_eq_zero.1 (Nat.eq_zero_of_add_eq_zero_right hpolls))] at hsteps

/-- A host command whose procedure is event primitives and an end step adds what these add. -/
theorem exec_adds {s t : State} {i : Instr} {w : Word} {ops : List MicroOp} {e : Ending} (h : s.Ready) (ht : exec i s = .next t)
    (hi : encode i = .host w) (hproc : procedureOf s.cfg i = ops ++ [.finish e]) (hops : ops.all MicroOp.isEvent = true) :
    s.Adds t (ops.countP MicroOp.isExchange) (ops.countP MicroOp.isDrive) := by
  obtain ⟨hidle, h0, -, -, he⟩ := h
  obtain ⟨n, -, hn⟩ := beforeAccept_eq i s
  rw [exec_host hi, hn, hproc, hostCommand_quiet w ops e (s := { s with pollCnt := n }) hidle he h0 hops
    (opsCost_lt_commandBound hi hproc hops).le] at ht
  split at ht
  · next u hu => cases ht; exact (opsRun_adds hu).ended e
  · cases ht

/-- A command that ends in an error adds nothing (R280). -/
theorem exec_error_adds {s t : State} {i : Instr} {w : Word} {code : ResultCode} (h : s.Ready) (ht : exec i s = .next t)
    (hi : encode i = .host w) (hproc : procedureOf s.cfg i = [.finish (.error code)]) : s.Adds t 0 0 :=
  exec_adds (ops := []) h ht hi hproc rfl

/-- An SPI command on an IDLE machine, where no frame stands at its command byte, adds nothing (log entry 11). -/
theorem exec_spi_adds {s t : State} {i : Instr} {c : Byte} (h : s.Ready) (ht : exec i s = .next t) (hi : encode i = .spi c) :
    s.Adds t 0 0 := by
  obtain ⟨hidle, -⟩ := h
  have hat : atCommandByte s = none := by simp [atCommandByte, hidle]
  rw [exec_spi hi, spiFrame, hat] at ht
  cases ht
  exact .refl s

/-! ### WRITE_PAYLOAD (R230) -/

theorem State.Adds.afterFrame (s : State) (c : Byte) (xs : List (Byte × Byte)) (r : Radio) :
    s.Adds (s.afterFrame c xs r) (xs.length + 1) 2 :=
  ⟨rfl, _, rfl, eventsCount_frameTrace s.cfg ((c, statusValue s.cfg s.radio) :: xs)⟩

theorem State.Adds.afterCE (s : State) (l : Bool) : s.Adds (s.afterCE l) 0 1 :=
  ⟨rfl, _, rfl, eventsCount_settled s.cfg (e := .ce l) rfl⟩

/-- Payload frame and trigger pulse (R232, R233). -/
theorem State.Adds.sentPayload (s : State) (bs : List Byte) : s.Adds (s.sentPayload bs) (bs.length + 1) 4 := by
  have hframe := State.Adds.afterFrame { s with pollCnt := 0 } 0xA0#8 (sent (s.draws + 2) bs)
    { s.radio.closed bs.length bs with txq := s.radio.txq ++ [bs] }
  rw [sent_length] at hframe
  exact (hframe.trans (.afterCE _ true)).trans (.afterCE _ false)

/-- A poll is one read frame (R234). -/
theorem State.Adds.polled (s : State) : s.Adds s.polled 2 2 :=
  .afterFrame s 0x07#8 (received [statusValue s.cfg s.radio]) (s.radio.closed 1 [])

/-- The clear of a flag is one write frame (R236). -/
theorem State.Adds.cleared (s : State) (mask : Byte) (r : Radio) : s.Adds (s.cleared mask r) 2 2 :=
  .afterFrame s 0x27#8 (sent (s.draws + 2) [mask]) (r.closed 1 [])

theorem State.Adds.polls (n : Nat) (s : State) : s.Adds (State.polled^[n] s) (2 * n) (2 * n) := by
  induction n with
  | zero => exact .refl s
  | succ n ih =>
    rw [Function.iterate_succ_apply']
    exact ih.trans (.polled _)

/-- The bytes of a data phase that has run were there to send (R39, R133). -/
theorem sourceBytes_of_opsRun_outs {srcs : List ByteSource} {k : List MicroOp} {s t : State}
    (h : opsRun (srcs.map .out ++ k) s = .ok t) : ∃ bs : List Byte, srcs.map (fun src => sourceByte src s) = bs.map .ok := by
  induction srcs generalizing s with
  | nil => exact ⟨[], rfl⟩
  | cons src srcs ih =>
    rw [List.map_cons, List.cons_append, opsRun, opStep] at h
    cases hb : sourceByte src s with
    | error f => rw [hb] at h; cases h
    | ok b =>
      rw [hb] at h
      obtain ⟨bs, hbs⟩ := ih h
      exact ⟨b :: bs, by simpa [hb] using hbs⟩

theorem sourceByte_txb_eq_ok {s : State} {i : Nat} {b : Byte} (h : sourceByte (.txb i) s = .ok b) :
    s.txb[i]? = some (some b) := by
  simp only [sourceByte] at h
  split at h
  · next b' hb =>
    cases h
    exact Option.join_eq_some_iff.1 hb
  · cases h

/-- The converse of `sourceBytes_txb`: the bytes a payload frame sends are written bytes at the head of TXB (R39, R232). -/
theorem take_txb_of_sourceBytes {s : State} {n : Nat} {bs : List Byte}
    (h : ((List.range n).map .txb).map (fun src => sourceByte src s) = bs.map .ok) :
    bs.length = n ∧ s.txb.take n = bs.map some := by
  have hlen : bs.length = n := by simpa using (congrArg List.length h).symm
  refine ⟨hlen, List.ext_getElem? fun i => ?_⟩
  by_cases hi : i < n
  · have hbyte : sourceByte (.txb i) s = .ok (bs[i]'(hlen ▸ hi)) := by
      simpa [hi, hlen] using congrArg (fun l => l[i]?) h
    rw [List.getElem?_take_of_lt hi, sourceByte_txb_eq_ok hbyte]
    simp [hi, hlen]
  · rw [List.getElem?_eq_none (by simp; omega), List.getElem?_eq_none (by simp; omega)]

/-- An accepted WRITE_PAYLOAD that did not fault has sent written bytes of TXB (R39, R290 a). -/
theorem written_of_exec_writePayload {s t : State} (h : s.Ready) {len : Byte} (hmax : len.toNat ≤ s.cfg.payloadMax)
    (ht : exec (.writePayload len) s = .next t) :
    ∃ bs : List Byte, bs.length = len.toNat ∧ s.txb.take len.toNat = bs.map some := by
  have hready : State.Ready { s with pollCnt := 0 } := h
  obtain ⟨hidle, h0, -, -, he⟩ := h
  rw [exec_host rfl, beforeAccept_writePayload hidle, procedureOf, procWritePayload_accepted hmax] at ht
  cases hrun : opsRun (writePayloadEvents len) (accept (commandWord (.writePayload len)) [] { s with pollCnt := 0 }) with
  | error f =>
    obtain ⟨n, hn⟩ := commandBound_eq_writePayload hmax
    have hfault := hostCommand_fault (s := { s with pollCnt := 0 }) (k := [.pollLoop, .finish (.flag false)]) hidle he h0
      (isEvent_writePayloadEvents len) (hn ▸ Nat.le_add_right _ _) hrun
    cases hfault.symm.trans ht
  | ok u =>
    rw [writePayloadEvents, frameOps, List.cons_append, List.cons_append,
      opsRun_open (.ofReady hready _ []) decodeSpi_txPayload rfl, List.append_assoc, List.append_assoc] at hrun
    obtain ⟨bs, hbs⟩ := sourceBytes_of_opsRun_outs hrun
    exact ⟨bs, take_txb_of_sourceBytes hbs⟩

/-- WRITE_PAYLOAD whose polls read neither flag makes POLL_MAX of them (R237, R330). -/
theorem exec_writePayload_adds_timeout {s t : State} (h : s.Ready) {len : Byte} (hmax : len.toNat ≤ s.cfg.payloadMax)
    (hf : s.radio.fTxDs = false) (hm : s.radio.fMaxRt = false) (ht : exec (.writePayload len) s = .next t) :
    s.Adds t (1 + len.toNat + 2 * s.cfg.pollMax) (4 + 2 * s.cfg.pollMax) := by
  obtain ⟨bs, hlen, htxb⟩ := written_of_exec_writePayload h hmax ht
  cases (writePayloadTimeout s len bs h hmax hlen htxb hf hm).symm.trans ht
  rw [Nat.add_comm 1, ← hlen]
  exact (State.Adds.sentPayload s bs).trans (.polls _ _)

/-- WRITE_PAYLOAD with a flag set at its first poll makes that poll and clears the flag (R235, R236, R330). -/
theorem exec_writePayload_adds_resolved {s t : State} (h : s.Ready) {len : Byte} (hmax : len.toNat ≤ s.cfg.payloadMax)
    (hpoll : 1 ≤ s.cfg.pollMax) (hflag : ¬ (s.radio.fTxDs = false ∧ s.radio.fMaxRt = false))
    (ht : exec (.writePayload len) s = .next t) : s.Adds t (3 + len.toNat + 2) 8 := by
  obtain ⟨bs, hlen, htxb⟩ := written_of_exec_writePayload h hmax ht
  have hadds : ∀ mask r w flag,
      s.Adds (((s.sentPayload bs).polled.cleared mask r).finished w .ok flag) (3 + len.toNat + 2) 8 := by
    intro mask r w flag
    rw [show 3 + len.toNat + 2 = bs.length + 1 + 2 + 2 by omega]
    exact ((State.Adds.sentPayload s bs).trans (.polled _)).trans (.cleared _ mask r)
  cases hf : s.radio.fTxDs with
  | true =>
    cases (writePayloadSuccess s _ len bs h hmax hpoll hlen htxb hf rfl).symm.trans ht
    exact hadds _ _ _ _
  | false =>
    have hm : s.radio.fMaxRt = true := by simpa [hf] using hflag
    cases (writePayloadFailure s _ len bs h hmax hpoll hlen htxb hf hm rfl).symm.trans ht
    exact hadds _ _ _ _

/-! ### Every command (R330) -/

theorem procOpenReadingPipe_valid {p : Byte} (h : ¬ 5#8 < p) :
    ∃ a, procOpenReadingPipe p = writeRegOps a addrlBytes ++ [.finish (.flag false)] := by
  obtain ⟨a, ha, -⟩ := pipeTarget_of_le (BitVec.not_lt.1 h)
  exact ⟨a, by rw [procOpenReadingPipe, ha]⟩

/-- Settles O59: the positions of a procedure say what it adds; only WRITE_PAYLOAD's poll loop depends on the radio. -/
theorem eventCounts : Obligations.EventCounts := by
  intro s t i h hpoll ht n hn
  cases i with
  | rRegister a => exact (exec_spi_adds h ht rfl).counted hn
  | wRegister a => exact (exec_spi_adds h ht rfl).counted hn
  | wTxPayload => exact (exec_spi_adds h ht rfl).counted hn
  | rRxPayload => exact (exec_spi_adds h ht rfl).counted hn
  | writeReg a v => exact (exec_adds h ht rfl rfl (isEvent_writeRegOps _ _)).counted hn
  | readReg a => exact (exec_adds h ht rfl rfl (isEvent_readRegOps _ _)).counted hn
  | setChannel v => exact (exec_adds h ht rfl rfl (isEvent_writeRegOps _ _)).counted hn
  | available => exact (exec_adds h ht rfl rfl (isEvent_readRegOps _ _)).counted hn
  | openWritingPipe => exact (exec_adds h ht rfl rfl (isEvent_writeRegOps _ _)).counted hn
  | setPaLevel v => exact (exec_adds h ht rfl rfl (by simp)).counted hn
  | beginRadio =>
    have hproc : procedureOf s.cfg .beginRadio
        = (.driveCE false :: beginTable.flatMap (fun row => writeRegOps row.1 [.const row.2])) ++ [.finish (.flag false)] := rfl
    refine (exec_adds h ht rfl hproc (by simp [beginTable, MicroOp.isEvent])).counted (hn.trans ?_)
    simp [beginTable, List.countP_cons, MicroOp.isExchange, MicroOp.isDrive]
  | startListening => exact (exec_adds h ht rfl procStartListening_eq rfl).counted hn
  | stopListening =>
    exact (exec_adds (ops := .driveCE false :: (readRegOps 0x00#5 .tmp ++ writeRegOps 0x00#5 [.modify 0xFE#8 0x00#8])) h ht rfl
      rfl rfl).counted hn
  | openReadingPipe p =>
    by_cases hp : 5#8 < p
    · exact (exec_error_adds h ht rfl (procOpenReadingPipe_invalid hp)).counted (hn.trans (if_pos hp))
    · obtain ⟨a, ha⟩ := procOpenReadingPipe_valid hp
      exact (exec_adds h ht rfl ha (isEvent_writeRegOps _ _)).counted (hn.trans (if_neg hp))
  | readPayload len =>
    by_cases hlen : s.cfg.payloadMax < len.toNat
    · exact (exec_error_adds h ht rfl (if_pos hlen)).counted (hn.trans (if_pos hlen))
    · refine (exec_adds h ht rfl (if_neg hlen) (by simp)).counted ((hn.trans (if_neg hlen)).trans ?_)
      simp
      omega
  | writePayload len =>
    by_cases hlen : s.cfg.payloadMax < len.toNat
    · exact (exec_error_adds h ht rfl (if_pos hlen)).counted (hn.trans (if_pos hlen))
    · have hmax := Nat.not_lt.1 hlen
      replace hn := hn.trans (if_neg hlen)
      by_cases hflag : s.radio.fTxDs = false ∧ s.radio.fMaxRt = false
      · obtain ⟨hf, hm⟩ := hflag
        exact (exec_writePayload_adds_timeout h hmax hf hm ht).counted (hn.trans (if_pos ⟨hf, hm⟩))
      · exact (exec_writePayload_adds_resolved h hmax hpoll hflag ht).counted (hn.trans (if_neg hflag))

end Sys2Proof.Machine
